-- ==== Sys2Proof/Word.lean ====
section
/-! DEFINITION. The word types of ECC256: bytes, 32-bit values, command words, response words.

Rules R9, R10, R70 and R73 of spec/. Bit 0 is the least significant bit of every value. -/

namespace Sys2Proof

/-- A byte, which is also one element of GF(256) (rules R9, R20). -/
abbrev Byte := BitVec 8

/-- A 32-bit value: an immediate, an address register, an information word (rules R30, R73). -/
abbrev Word32 := BitVec 32

/-- A command word `W = {op, a, b, c, imm}` (rule R70). -/
abbrev Command := BitVec 64

/-- A response word `R = {STATUS, RVAL}` (rule R73). -/
abbrev Response := BitVec 40

end Sys2Proof
end

