-- ==== Sys2Proof/Syntax.lean ====
section
/-! DEFINITION. The command set of ECC256, one constructor per row of spec/opcode_table.json (rule R71).

A register, bank or control-register number is the whole 8-bit field of the command word (rule R82), so
the numbers that rule R78 makes fail with BAD_OPERAND are terms too. MGET and MPUT name their scalar
register in four bits. -/

namespace Sys2Proof

/-- The 22 commands (rule R71). -/
inductive Instr where
  /-- NOP, rule R230. -/
  | nop
  /-- SRST, rule R231: soft reset. -/
  | srst
  /-- CFG k, n, rule R165: code parameters, each a 16-bit number. -/
  | cfg (k n : BitVec 16)
  /-- CRW cr, value, rule R232: write a control register. -/
  | crw (cr : Byte) (value : Word32)
  /-- CRR cr, rule R233: read a control register. -/
  | crr (cr : Byte)
  /-- PIDXW slot, index, rule R234: write a presented-index slot. -/
  | pidxw (slot index : Byte)
  /-- PIDXR slot, rule R235: read a presented-index slot. -/
  | pidxr (slot : Byte)
  /-- GFLDI gd, value, rule R110: load immediate. -/
  | gfldi (gd value : Byte)
  /-- GFADD gd, ga, gb, rule R111: field addition. -/
  | gfadd (gd ga gb : Byte)
  /-- GFMUL gd, ga, gb, rule R112: field multiplication. -/
  | gfmul (gd ga gb : Byte)
  /-- GFINV gd, ga, rule R113: multiplicative inverse. -/
  | gfinv (gd ga : Byte)
  /-- GFRD ga, rule R114: read a scalar register. -/
  | gfrd (ga : Byte)
  /-- LDB gd, [addr], rule R115: load byte. -/
  | ldb (gd : Byte) (addr : Word32)
  /-- STB ga, [addr], rule R116: store byte. -/
  | stb (ga : Byte) (addr : Word32)
  /-- MDIM md, rows, cols, rule R135: set a bank's dimensions and clear it. -/
  | mdim (md rows cols : Byte)
  /-- MWRI md[row][col], value, rule R136: write an immediate into a cell. -/
  | mwri (md row col value : Byte)
  /-- MGET gd, ma[row][col], rule R137: copy a cell to a scalar register. -/
  | mget (ma row col : Byte) (gd : BitVec 4)
  /-- MPUT md[row][col], ga, rule R138: copy a scalar register to a cell. -/
  | mput (md row col : Byte) (ga : BitVec 4)
  /-- MMUL md, ma, mb, rule R139: matrix product. -/
  | mmul (md ma mb : Byte)
  /-- MINV md, ma, rule R140: matrix inverse. -/
  | minv (md ma : Byte)
  /-- ENC, rule R181: encode k data blocks into n shards. -/
  | enc
  /-- DEC, rule R205: recover the k data blocks from presented shards. -/
  | dec
  deriving DecidableEq, Repr

end Sys2Proof
end

