-- ==== Sys2Proof/WellFormed.lean ====
section
/-! DEFINITION. Which commands have operands in range: rule R78 of 30_encoding.md, as a check on syntax.

A command that is not well formed is still a command: it executes, and answers BAD_OPERAND (rule R75,
step 2). DESIGN CHOICE (log entry 14): the model calls exactly the commands that pass rule R78 well formed. -/

namespace Sys2Proof

/-- The number of a scalar register (rule R78). -/
def WellFormed.greg (a : Byte) : Bool := decide (a.toNat ≤ 15)

/-- The number of a bank that may be read (rule R78). -/
def WellFormed.bank (a : Byte) : Bool := decide (a.toNat ≤ 3)

/-- The number of a bank that a matrix command may write: bank 0 is written by CFG only (rules R25, R78). -/
def WellFormed.destBank (a : Byte) : Bool := decide (1 ≤ a.toNat ∧ a.toNat ≤ 3)

/-- The table of rule R78: true when no BAD_OPERAND condition holds for the command. -/
def Instr.wellFormed : Instr → Bool
  | .nop => true
  | .srst => true
  | .cfg _ _ => true
  | .crw cr value => decide (3 ≤ cr.toNat ∧ cr.toNat ≤ 6) && !decide (cr.toNat = 6 ∧ 255 < value.toNat)
  | .crr cr => decide (cr.toNat ≤ 8)
  | .pidxw _ _ => true
  | .pidxr _ => true
  | .gfldi gd _ => WellFormed.greg gd
  | .gfadd gd ga gb => WellFormed.greg gd && WellFormed.greg ga && WellFormed.greg gb
  | .gfmul gd ga gb => WellFormed.greg gd && WellFormed.greg ga && WellFormed.greg gb
  | .gfinv gd ga => WellFormed.greg gd && WellFormed.greg ga
  | .gfrd ga => WellFormed.greg ga
  | .ldb gd _ => WellFormed.greg gd
  | .stb ga _ => WellFormed.greg ga
  | .mdim md _ _ => WellFormed.destBank md
  | .mwri md _ _ _ => WellFormed.destBank md
  | .mget ma _ _ _ => WellFormed.bank ma
  | .mput md _ _ _ => WellFormed.destBank md
  | .mmul md ma mb => WellFormed.destBank md && WellFormed.bank ma && WellFormed.bank mb
  | .minv md ma => WellFormed.destBank md && WellFormed.bank ma
  | .enc => true
  | .dec => true

/-- A command whose operands are in range (rule R78). -/
abbrev WellFormed (i : Instr) : Prop := i.wellFormed = true

end Sys2Proof
end

