-- ==== Sys2Proof/Decode.lean ====
section
/-! DEFINITION. Decoding and encoding of command words: rules R70, R71, R72, R77, R79 and R82 of 30_encoding.md.

Decoding is strict: a word whose opcode is none of the 22, or that has a bit set in a field its command
reserves, decodes to no command. -/

namespace Sys2Proof

/-- Why a word is no command (rule R77). Both reasons answer ILLEGAL_COMMAND. -/
inductive DecodeError where
  /-- The opcode byte is none of the 22 values of rule R71. -/
  | undefinedOpcode
  /-- A bit of a reserved field of this opcode is not zero. -/
  | reservedNotZero
  deriving DecidableEq, Repr

/-- The five fields of a command word (rule R70). -/
structure Fields where
  op : Byte
  a : Byte
  b : Byte
  c : Byte
  imm : Word32
  deriving DecidableEq, Repr

/-- The fields of a word: `W[63:56]`, `W[55:48]`, `W[47:40]`, `W[39:32]`, `W[31:0]` (rule R70). -/
def fieldsOf (w : Command) : Fields where
  op := w.extractLsb' 56 8
  a := w.extractLsb' 48 8
  b := w.extractLsb' 40 8
  c := w.extractLsb' 32 8
  imm := w.extractLsb' 0 32

/-- `W = {op, a, b, c, imm}` (rule R70). -/
def wordOf (f : Fields) : Command := f.op ++ f.a ++ f.b ++ f.c ++ f.imm

/-- A command `i`, provided its reserved fields are zero (rule R77). -/
def ifReservedZero (reservedZero : Bool) (i : Instr) : Except DecodeError Instr :=
  if reservedZero then .ok i else .error .reservedNotZero

/-- Decode the fields of a word (rules R71, R77). In each row the first argument of `ifReservedZero` says that
every field rule R71 marks 0 for this opcode is zero. -/
def decodeFields (f : Fields) : Except DecodeError Instr :=
  match f.op with
  | 0x00#8 => ifReservedZero (f.a == 0 && f.b == 0 && f.c == 0 && f.imm == 0) .nop
  | 0x01#8 => ifReservedZero (f.a == 0 && f.b == 0 && f.c == 0 && f.imm == 0) .srst
  | 0x02#8 => ifReservedZero (f.a == 0 && f.b == 0 && f.c == 0) (.cfg (f.imm.extractLsb' 0 16) (f.imm.extractLsb' 16 16))
  | 0x03#8 => ifReservedZero (f.b == 0 && f.c == 0) (.crw f.a f.imm)
  | 0x04#8 => ifReservedZero (f.b == 0 && f.c == 0 && f.imm == 0) (.crr f.a)
  | 0x05#8 => ifReservedZero (f.c == 0 && f.imm == 0) (.pidxw f.a f.b)
  | 0x06#8 => ifReservedZero (f.b == 0 && f.c == 0 && f.imm == 0) (.pidxr f.a)
  | 0x10#8 => ifReservedZero (f.c == 0 && f.imm == 0) (.gfldi f.a f.b)
  | 0x11#8 => ifReservedZero (f.imm == 0) (.gfadd f.a f.b f.c)
  | 0x12#8 => ifReservedZero (f.imm == 0) (.gfmul f.a f.b f.c)
  | 0x13#8 => ifReservedZero (f.c == 0 && f.imm == 0) (.gfinv f.a f.b)
  | 0x14#8 => ifReservedZero (f.b == 0 && f.c == 0 && f.imm == 0) (.gfrd f.a)
  | 0x18#8 => ifReservedZero (f.b == 0 && f.c == 0) (.ldb f.a f.imm)
  | 0x19#8 => ifReservedZero (f.b == 0 && f.c == 0) (.stb f.a f.imm)
  | 0x20#8 => ifReservedZero (f.imm == 0) (.mdim f.a f.b f.c)
  | 0x21#8 => ifReservedZero (f.imm.extractLsb' 8 24 == 0) (.mwri f.a f.b f.c (f.imm.extractLsb' 0 8))
  | 0x22#8 => ifReservedZero (f.imm.extractLsb' 4 28 == 0) (.mget f.a f.b f.c (f.imm.extractLsb' 0 4))
  | 0x23#8 => ifReservedZero (f.imm.extractLsb' 4 28 == 0) (.mput f.a f.b f.c (f.imm.extractLsb' 0 4))
  | 0x24#8 => ifReservedZero (f.imm == 0) (.mmul f.a f.b f.c)
  | 0x25#8 => ifReservedZero (f.c == 0 && f.imm == 0) (.minv f.a f.b)
  | 0x30#8 => ifReservedZero (f.a == 0 && f.b == 0 && f.c == 0 && f.imm == 0) .enc
  | 0x31#8 => ifReservedZero (f.a == 0 && f.b == 0 && f.c == 0 && f.imm == 0) .dec
  | _ => .error .undefinedOpcode

/-- Decode a command word (rule R75, step 1). Every word is 64 bits and has one reading or none (rule R79). -/
def decode (w : Command) : Except DecodeError Instr := decodeFields (fieldsOf w)

/-- The fields of a command's word (rule R71): the operands in their places, every reserved field zero. -/
def encodeFields : Instr → Fields
  | .nop => ⟨0x00, 0, 0, 0, 0⟩
  | .srst => ⟨0x01, 0, 0, 0, 0⟩
  | .cfg k n => ⟨0x02, 0, 0, 0, n ++ k⟩
  | .crw cr value => ⟨0x03, cr, 0, 0, value⟩
  | .crr cr => ⟨0x04, cr, 0, 0, 0⟩
  | .pidxw slot index => ⟨0x05, slot, index, 0, 0⟩
  | .pidxr slot => ⟨0x06, slot, 0, 0, 0⟩
  | .gfldi gd value => ⟨0x10, gd, value, 0, 0⟩
  | .gfadd gd ga gb => ⟨0x11, gd, ga, gb, 0⟩
  | .gfmul gd ga gb => ⟨0x12, gd, ga, gb, 0⟩
  | .gfinv gd ga => ⟨0x13, gd, ga, 0, 0⟩
  | .gfrd ga => ⟨0x14, ga, 0, 0, 0⟩
  | .ldb gd addr => ⟨0x18, gd, 0, 0, addr⟩
  | .stb ga addr => ⟨0x19, ga, 0, 0, addr⟩
  | .mdim md rows cols => ⟨0x20, md, rows, cols, 0⟩
  | .mwri md row col value => ⟨0x21, md, row, col, (0#24 ++ value : BitVec 32)⟩
  | .mget ma row col gd => ⟨0x22, ma, row, col, (0#28 ++ gd : BitVec 32)⟩
  | .mput md row col ga => ⟨0x23, md, row, col, (0#28 ++ ga : BitVec 32)⟩
  | .mmul md ma mb => ⟨0x24, md, ma, mb, 0⟩
  | .minv md ma => ⟨0x25, md, ma, 0, 0⟩
  | .enc => ⟨0x30, 0, 0, 0, 0⟩
  | .dec => ⟨0x31, 0, 0, 0, 0⟩

/-- The command word of a command (rule R71). -/
def encode (i : Instr) : Command := wordOf (encodeFields i)

/-- One row of spec/opcode_table.json: a word `w` is of this row when `w &&& mask = pattern` (rule R72). -/
structure OpcodeRow where
  mnemonic : String
  pattern : Command
  mask : Command
  deriving DecidableEq, Repr

/-- The row of spec/opcode_table.json a command belongs to: the table's own match and mask (rule R72). -/
def opcodeRow : Instr → OpcodeRow
  | .nop => ⟨"NOP", 0x0000000000000000, 0xFFFFFFFFFFFFFFFF⟩
  | .srst => ⟨"SRST", 0x0100000000000000, 0xFFFFFFFFFFFFFFFF⟩
  | .cfg _ _ => ⟨"CFG", 0x0200000000000000, 0xFFFFFFFF00000000⟩
  | .crw _ _ => ⟨"CRW", 0x0300000000000000, 0xFF00FFFF00000000⟩
  | .crr _ => ⟨"CRR", 0x0400000000000000, 0xFF00FFFFFFFFFFFF⟩
  | .pidxw _ _ => ⟨"PIDXW", 0x0500000000000000, 0xFF0000FFFFFFFFFF⟩
  | .pidxr _ => ⟨"PIDXR", 0x0600000000000000, 0xFF00FFFFFFFFFFFF⟩
  | .gfldi _ _ => ⟨"GFLDI", 0x1000000000000000, 0xFF0000FFFFFFFFFF⟩
  | .gfadd _ _ _ => ⟨"GFADD", 0x1100000000000000, 0xFF000000FFFFFFFF⟩
  | .gfmul _ _ _ => ⟨"GFMUL", 0x1200000000000000, 0xFF000000FFFFFFFF⟩
  | .gfinv _ _ => ⟨"GFINV", 0x1300000000000000, 0xFF0000FFFFFFFFFF⟩
  | .gfrd _ => ⟨"GFRD", 0x1400000000000000, 0xFF00FFFFFFFFFFFF⟩
  | .ldb _ _ => ⟨"LDB", 0x1800000000000000, 0xFF00FFFF00000000⟩
  | .stb _ _ => ⟨"STB", 0x1900000000000000, 0xFF00FFFF00000000⟩
  | .mdim _ _ _ => ⟨"MDIM", 0x2000000000000000, 0xFF000000FFFFFFFF⟩
  | .mwri _ _ _ _ => ⟨"MWRI", 0x2100000000000000, 0xFF000000FFFFFF00⟩
  | .mget _ _ _ _ => ⟨"MGET", 0x2200000000000000, 0xFF000000FFFFFFF0⟩
  | .mput _ _ _ _ => ⟨"MPUT", 0x2300000000000000, 0xFF000000FFFFFFF0⟩
  | .mmul _ _ _ => ⟨"MMUL", 0x2400000000000000, 0xFF000000FFFFFFFF⟩
  | .minv _ _ => ⟨"MINV", 0x2500000000000000, 0xFF0000FFFFFFFFFF⟩
  | .enc => ⟨"ENC", 0x3000000000000000, 0xFFFFFFFFFFFFFFFF⟩
  | .dec => ⟨"DEC", 0x3100000000000000, 0xFFFFFFFFFFFFFFFF⟩

/-- One command of each row of the table, in the table's order. -/
def commandOfEachRow : List Instr :=
  [.nop, .srst, .cfg 0 0, .crw 0 0, .crr 0, .pidxw 0 0, .pidxr 0, .gfldi 0 0, .gfadd 0 0 0, .gfmul 0 0 0, .gfinv 0 0,
    .gfrd 0, .ldb 0 0, .stb 0 0, .mdim 0 0 0, .mwri 0 0 0 0, .mget 0 0 0 0, .mput 0 0 0 0, .mmul 0 0 0, .minv 0 0,
    .enc, .dec]

/-- The 22 rows of the opcode table (rule R72). -/
def opcodeTable : List OpcodeRow := commandOfEachRow.map opcodeRow

/-- The command word of an instruction given as `nbits` bits numbered as spec/opcode_table.json numbers them: bit 0
is the word's bit 0, and bits from `nbits` up are zero. Every row of the table has 64 bits (rule R79). Log entry 16. -/
def tableWord (nbits w : Nat) : Command := BitVec.ofNat 64 (w % 2 ^ nbits)

/-- The instruction the decoder reads from a word numbered as the opcode table numbers it; none where it refuses. -/
def decodeTableWord (nbits w : Nat) : Option Instr :=
  match decode (tableWord nbits w) with
  | .ok i => some i
  | .error _ => none

end Sys2Proof
end

