-- ==== Sys2Proof/Machine/Field.lean ====
section
/-! DEFINITION. The arithmetic of GF(256): rules R100 to R104 of 41_gf256_alu.md. -/

namespace Sys2Proof.Machine

/-- `gf_add(a, b) = a ^ b` (rule R100). -/
def gfAdd (a b : Byte) : Byte := a ^^^ b

/-- Multiply by `x` and reduce (rule R101): shift left, drop bit 8, and where it was set add `0x1B`. -/
def gfTimesX (a : Byte) : Byte := if a.getLsbD 7 then (a <<< 1) ^^^ 0x1B#8 else a <<< 1

/-- One round of the loop of rule R101, on the partial product and the running multiple of `a`. -/
def gfMulRound (b : Byte) (pa : Byte × Byte) (i : Nat) : Byte × Byte :=
  (if b.getLsbD i then pa.1 ^^^ pa.2 else pa.1, gfTimesX pa.2)

/-- `gf_mul(a, b)`, by the loop that is its definition (rule R101). -/
def gfMul (a b : Byte) : Byte := ((List.range 8).foldl (gfMulRound b) (0x00, a)).1

/-- `gf_pow(x, j)` (rule R102). -/
def gfPow (x : Byte) : Nat → Byte
  | 0 => 0x01
  | j + 1 => gfMul (gfPow x j) x

/-- `gf_inv(a)`, the byte `b` with `gf_mul(a, b) = 0x01`, found as rule R103 defines it; none for `0x00`, which has no such byte
(V9). Log entry 4. -/
def gfInv (a : Byte) : Option Byte := ((List.range 256).map (BitVec.ofNat 8)).find? fun b => gfMul a b == 0x01

/-- `XOR_{t in [0,q)} term(t)`, `0x00` when `q = 0` (rule R9). -/
def xorSum (q : Nat) (term : Nat → Byte) : Byte := (List.range q).foldl (fun acc t => gfAdd acc (term t)) 0x00

end Sys2Proof.Machine
end

