-- ==== Sys2Proof/Config.lean ====
section
/-! DEFINITION. What an implementation of ECC256 fixes, and the free values of the model.

The constants of rule R7 that commands can read, the size of data memory that `State.reset` is built
with, and the two values the spec leaves open that no proof may lean on (they have no body). -/

namespace Sys2Proof

/-- The identity word, control register 0 (rules R30, R31): ASCII "EC01". -/
def Config.identityWord : Word32 := 0x45433031#32

/-- The field polynomial as control register 1 shows it (rules R30, R31): bit `i` is the coefficient
of `x^i`. -/
def Config.polynomialWord : Word32 := 0x0000011B#32

/-- `DMEM_BYTES` of the machine `State.reset` describes. DESIGN CHOICE (log entry 2), unsafe for a
claim about `State.reset` alone: the spec leaves the size open (0 to 2^32 - 1) and uses 256 as the
usual size of its own test vectors. Every machine's size is the field `dmemBytes` of its state, so a
statement about every state holds for every size. -/
def Config.dmemBytes : Word32 := 256#32

/-- A byte of DMEM that a reset during a command leaves unspecified (rule R311, V3): the free value for
the `fresh`-th such reset and an address. It has no body: nothing constrains it. Log entry 6. -/
opaque Config.unspecifiedByte (fresh address : Nat) : Byte

/-- `H`, the content hash of the host (rule R252, U6): some function from byte strings to 256-bit
digests. It has no body, so no proof depends on which one. Host side only. Log entry 11. -/
opaque Config.contentHash (bytes : List Byte) : BitVec 256

end Sys2Proof
end

