-- ==== Sys2Proof/Machine/State.lean ====
section
/-! DEFINITION. The architectural state of one ECC256 core (rules R19 to R42), the state after reset (rule R310), and why
a step can stop.

Plain data throughout. Two fields are the model's own, not the spec's: the host's coming actions, and the
counter of the free values. -/

namespace Sys2Proof.Machine

/-- A matrix value (rules R13, R23, R24): its dimensions, and its rows from row 0, each from column 0. -/
structure MatrixVal where
  rows : Nat
  cols : Nat
  cells : List (List Byte)
  deriving DecidableEq, Repr

/-- Data memory: the bytes that differ from what an unlisted address reads as, by strictly rising address. -/
abbrev Memory := List Host.Cell

/-- The values of `STATUS` (rule R281). The code of each is `Status.code`. -/
inductive Status where
  /-- `0x00`, the command completed. -/
  | ok
  /-- `0x01`, CFG with k = 0, n < k or n > 255. -/
  | invalidParameters
  /-- `0x02`, DEC with PCNT < K. -/
  | insufficientShards
  /-- `0x03`, DEC with a presented index that is N or more, or repeated. -/
  | dupOrRangeIndex
  /-- `0x04`, MINV of a matrix that is not invertible; DEC of a singular submatrix. -/
  | singular
  /-- `0x05`, reserved for a host driver: no command answers it (V10). -/
  | integrityMismatch
  /-- `0x06`, GFINV of `0x00`. -/
  | domainError
  /-- `0x10`, an undefined opcode, or a reserved field not zero. -/
  | illegalCommand
  /-- `0x11`, a register, bank or control-register number or a written value out of range; a write-protected destination. -/
  | badOperand
  /-- `0x12`, matrix dimensions that do not fit the command. -/
  | dimError
  /-- `0x13`, ENC or DEC before a successful CFG. -/
  | notConfigured
  /-- `0x14`, an address or region outside DMEM, or overlapping regions. -/
  | badRange
  deriving DecidableEq, Repr

/-- What the host can do to the core, one at a time (rules R36, R64, R74, R310, R311). -/
inductive HostInput where
  /-- Present a command word at the command port (rule R74). -/
  | command (w : Command)
  /-- Replace bytes of DMEM while the core is idle (rule R64), in the order listed. -/
  | dmemWrite (cells : List Host.Cell)
  /-- Assert and release the reset input while the core is idle (rule R310). -/
  | reset
  /-- Present a command word, and assert and release the reset input while that command executes (rule R311). -/
  | resetDuring (w : Command)
  deriving DecidableEq, Repr

/-- The whole state of one core (rule R19). -/
structure State where
  /-- Scalar registers `g[0..15]` (rule R20). -/
  g : Vector Byte 16
  /-- Matrix banks `M[0..3]` (rule R23); `M[0]` is the generator bank (rule R25). -/
  banks : Vector MatrixVal 4
  /-- Code parameter `K` (rule R32). -/
  k : BitVec 8
  /-- Code parameter `N` (rule R32). -/
  n : BitVec 8
  /-- `CFGOK`: `K`, `N` and `M[0]` are valid (rule R32). -/
  cfgok : Bool
  /-- Control register `SRC` (rule R33). -/
  src : Word32
  /-- Control register `DST` (rule R33). -/
  dst : Word32
  /-- Control register `BLEN` (rule R33). -/
  blen : Word32
  /-- Control register `PCNT`, an 8-bit register (rule R34). -/
  pcnt : BitVec 8
  /-- Presented-index slots `PIDX[0..255]` (rule R27). -/
  pidx : Vector Byte 256
  /-- `STATUS` of the most recent response (rule R37). -/
  status : Status
  /-- `RVAL` of the most recent response (rule R37). -/
  rval : Word32
  /-- `CCNT`, the command counter (rule R35). -/
  ccnt : Word32
  /-- `DMEM` (rules R39, R50). -/
  dmem : Memory
  /-- `DMEM_BYTES`, a constant of the machine that DMEMSZ shows (rules R30, R50); no step changes it. -/
  dmemBytes : Word32
  /-- The model's own: what the host will do next, oldest first (rule R36). Log entry 1. -/
  inputs : List HostInput
  /-- The model's own: which free values a reset during a command takes next (rule R311). Log entry 6. -/
  fresh : Nat
  deriving DecidableEq, Repr

/-- The state after power-on and reset of a core with `bytes` bytes of DMEM that hold `mem` (rules R310, R40): both are
arguments of the model, as the spec says. -/
def State.powerOn (bytes : Word32) (mem : Memory) : State where
  g := Vector.replicate 16 0x00
  banks := Vector.replicate 4 ⟨0, 0, []⟩
  k := 0
  n := 0
  cfgok := false
  src := 0
  dst := 0
  blen := 0
  pcnt := 0
  pidx := Vector.replicate 256 0x00
  status := .ok
  rval := 0
  ccnt := 0
  dmem := mem
  dmemBytes := bytes
  inputs := []
  fresh := 0

/-- The machine right after reset (rule R310), with the size of data memory of `Config.dmemBytes` (log entry 2) and no
byte of it listed (log entry 3). -/
def State.reset : State := State.powerOn Config.dmemBytes []

/-- Why the machine stops with a fault. -/
inductive Fault where
  /-- Raised by a host step that writes a byte at an address that is no byte of DMEM (rules R50, R64), never by a
  command. Safe: rule R64 lets the host write only bytes of DMEM. Log entry 7. -/
  | noSuchAddress (address : Nat)
  deriving DecidableEq, Repr

/-- Why an instruction has no meaning in the model. -/
inductive Refusal where
  /-- Raised by an arm of `exec` whose instruction is not modelled; no arm of this model raises it. Safe. -/
  | notModelled (mnemonic : String)
  deriving DecidableEq, Repr

/-- The outcome of a step of this machine. -/
abbrev Res := Host.Outcome State Fault Refusal

end Sys2Proof.Machine
end

