-- ==== Sys2Proof/Machine/Ops.lean ====
section
/-! DEFINITION. The named operations over memory and registers, and the two ways a command ends.

Memory: rules R11, R50 to R53, R56. Responses: rules R73, R75, R76, R280, R286. Reset: rules R231, R310. -/

namespace Sys2Proof.Machine

/-- What a byte of DMEM that nothing has written reads as. DESIGN CHOICE (log entry 3), unsafe: the spec leaves the contents
after power-on unspecified (rule R40); every content is some `Memory`, so statements about every state cover all of them. -/
def unlistedByte : Byte := 0x00

/-- `MemRead(addr, 1)` (rule R11). -/
def memRead : Memory → Nat → Byte
  | [], _ => unlistedByte
  | e :: m, addr => if e.1 = addr then e.2 else memRead m addr

/-- The memory without what it lists at an address. -/
def memErase (m : Memory) (addr : Nat) : Memory := m.filter fun e => e.1 != addr

/-- The memory with a cell put in before the first higher address. -/
def memInsert : Memory → Nat → Byte → Memory
  | [], addr, v => [(addr, v)]
  | e :: m, addr, v => if addr < e.1 then (addr, v) :: e :: m else e :: memInsert m addr v

/-- `MemWrite(addr, 1, v)` (rule R11), keeping the canonical form. -/
def memWrite (m : Memory) (addr : Nat) (v : Byte) : Memory :=
  if v = unlistedByte then memErase m addr else memInsert (memErase m addr) addr v

/-- The `len` bytes from address `base` up (rules R55, R181). -/
def memReadBytes (m : Memory) (base len : Nat) : List Byte := (List.range len).map fun j => memRead m (base + j)

/-- Write bytes from address `base` up (rules R55, R181). -/
def memWriteBytes : Memory → Nat → List Byte → Memory
  | m, _, [] => m
  | m, base, v :: vs => memWriteBytes (memWrite m base v) (base + 1) vs

/-- Write cells in the order listed (rule R64). -/
def memWriteCells : Memory → List Host.Cell → Memory
  | m, [] => m
  | m, c :: cs => memWriteCells (memWrite m c.1 c.2) cs

/-- The canonical form: addresses strictly rising, no entry equal to what an unlisted address reads as. -/
def Memory.wf (m : Memory) : Bool :=
  decide ((m.map Prod.fst).Pairwise (· < ·)) && m.all fun e => e.2 != unlistedByte

/-- `addr` is a byte of DMEM: addresses at or above `DMEM_BYTES` hold nothing (rule R50). -/
def State.hasByte (s : State) (addr : Nat) : Bool := decide (addr < s.dmemBytes.toNat)

/-- `g[r] <- v` (rule R11). -/
def State.setG (s : State) (r : Fin 16) (v : Byte) : State := { s with g := s.g.set r v }

/-- `M[b] <- x`, the whole bank (rule R11). -/
def State.setBank (s : State) (b : Fin 4) (x : MatrixVal) : State := { s with banks := s.banks.set b x }

/-- `PIDX[slot] <- v` (rule R11); an 8-bit field names every slot (rule R78). -/
def State.setPidx (s : State) (slot : Byte) (v : Byte) : State :=
  { s with pidx := s.pidx.set slot.toNat v slot.isLt }

/-- `PIDX[slot]` (rule R11). -/
def State.pidxAt (s : State) (slot : Byte) : Byte := s.pidx[slot.toNat]'slot.isLt

/-- Replace DMEM. -/
def State.setDmem (s : State) (m : Memory) : State := { s with dmem := m }

/-- Steps 4 and 5 of rule R75: the response, and the count (mod 2^32, rule R35). -/
def State.respond (s : State) (status : Status) (rval : Word32) : State :=
  { s with status := status, rval := rval, ccnt := s.ccnt + 1 }

/-- A command completes with `RVAL = rval` (rules R73, R75). -/
def complete (rval : Word32) (s : State) : Res := .next (s.respond .ok rval)

/-- `raise <status>(info)` (rules R12, R76, R280, R286): taking an error. Applied to the command's pre-state, it changes `STATUS`,
`RVAL` and `CCNT` only. No state is saved and control goes nowhere; there is no return from it (rule R287). -/
def raise (status : Status) (info : Word32) (s : State) : Res := .next (s.respond status info)

/-- Every piece of state at its reset value but DMEM, which SRST and the reset input keep (rules R231, R310). The host's coming
actions and the free-value counter are the model's own and stay too. Log entry 9. -/
def State.resetKeepingDmem (s : State) : State :=
  { State.powerOn s.dmemBytes s.dmem with inputs := s.inputs, fresh := s.fresh }

end Sys2Proof.Machine
end

