-- ==== Sys2Proof/Machine/Flags.lean ====
section
/-! DEFINITION. The condition codes of ECC256: the numbering of `STATUS`, the response word, and the view CONFIG gives of `CFGOK`.

There are no other flags: no carry, zero, sign or overflow (rules R37, R38, R105). -/

namespace Sys2Proof.Machine

/-- The 8-bit code of a status (rule R281). -/
def Status.code : Status → BitVec 8
  | .ok => 0x00
  | .invalidParameters => 0x01
  | .insufficientShards => 0x02
  | .dupOrRangeIndex => 0x03
  | .singular => 0x04
  | .integrityMismatch => 0x05
  | .domainError => 0x06
  | .illegalCommand => 0x10
  | .badOperand => 0x11
  | .dimError => 0x12
  | .notConfigured => 0x13
  | .badRange => 0x14

/-- The response port: `R = {STATUS, RVAL}` (rules R37, R73). -/
def State.response (s : State) : Response := s.status.code ++ s.rval

/-- `zext_32` of a byte (rules R10, R82). -/
def zext32 (v : Byte) : Word32 := v.setWidth 32

/-- A small natural number as an information word (rule R282). -/
def infoWord (x : Nat) : Word32 := BitVec.ofNat 32 x

/-- Control register CONFIG: `[7:0] = K`, `[15:8] = N`, `[16] = CFGOK`, `[31:17] = 0` (rules R30, R32). -/
def State.config (s : State) : Word32 := 0#15 ++ BitVec.ofBool s.cfgok ++ s.n ++ s.k

/-- BAD_OPERAND, with `RVAL = 0` (rule R78). -/
def badOperand (s : State) : Res := raise .badOperand 0 s

/-- ILLEGAL_COMMAND, with `RVAL = 0` (rule R77). -/
def illegalCommand (s : State) : Res := raise .illegalCommand 0 s

end Sys2Proof.Machine
end

