-- ==== Sys2Proof/Machine/Operands.lean ====
section
/-! DEFINITION. The operand forms: scalar registers, banks, destination banks, control registers (rules R21, R25, R29, R30, R78, R82).

Each `with…` runs the rest of a command on the operand, or answers BAD_OPERAND when rule R78 says so. -/

namespace Sys2Proof.Machine

/-- The scalar register an 8-bit field names, if any (rules R21, R78). -/
def gregOf (a : Byte) : Option (Fin 16) := if h : a.toNat < 16 then some ⟨a.toNat, h⟩ else none

/-- The bank an 8-bit field names, if any (rule R78). -/
def bankOf (a : Byte) : Option (Fin 4) := if h : a.toNat < 4 then some ⟨a.toNat, h⟩ else none

/-- The bank a matrix command may write, if any: never bank 0 (rules R25, R78). -/
def destBankOf (a : Byte) : Option (Fin 4) := if a = 0 then none else bankOf a

/-- The scalar register a 4-bit field names: always one (rule R82). -/
def nibbleReg (a : BitVec 4) : Fin 16 := a.toFin

/-- Run `rest` on an operand, or answer BAD_OPERAND (rule R75, step 2). -/
def withOperand {α : Type} (operand : Option α) (s : State) (rest : α → Res) : Res :=
  match operand with
  | some x => rest x
  | none => badOperand s

/-- The value of control register `cr` as CRR reads it, if there is one (rules R30, R233). -/
def crRead (cr : Byte) (s : State) : Option Word32 :=
  match cr with
  | 0#8 => some Config.identityWord
  | 1#8 => some Config.polynomialWord
  | 2#8 => some s.config
  | 3#8 => some s.src
  | 4#8 => some s.dst
  | 5#8 => some s.blen
  | 6#8 => some (zext32 s.pcnt)
  | 7#8 => some s.ccnt
  | 8#8 => some s.dmemBytes
  | _ => none

/-- The state with control register `cr` written, unless it is read-only or absent or the value is out of range
(rules R29, R33, R34, R232). -/
def crWrite (cr : Byte) (value : Word32) (s : State) : Option State :=
  match cr with
  | 3#8 => some { s with src := value }
  | 4#8 => some { s with dst := value }
  | 5#8 => some { s with blen := value }
  | 6#8 => if 255 < value.toNat then none else some { s with pcnt := value.extractLsb' 0 8 }
  | _ => none

end Sys2Proof.Machine
end

