-- ==== Sys2Proof/Machine/Alu.lean ====
section
/-! DEFINITION. GF256 ALU, scalar and byte-memory commands: GFLDI, GFADD, GFMUL, GFINV, GFRD, LDB, STB (41_gf256_alu.md). -/

namespace Sys2Proof.Machine

/-- Write a scalar register and answer the byte written (rule R73). -/
def completeG (gd : Fin 16) (v : Byte) (s : State) : Res := complete (zext32 v) (s.setG gd v)

/-- GFLDI (rule R110). -/
def execGfldi (gd value : Byte) (s : State) : Res := withOperand (gregOf gd) s fun d => completeG d value s

/-- A two-source field operation (rules R111, R112): both sources are read from the pre-state. -/
def fieldOp (op : Byte → Byte → Byte) (gd ga gb : Byte) (s : State) : Res :=
  withOperand (gregOf gd) s fun d =>
  withOperand (gregOf ga) s fun a =>
  withOperand (gregOf gb) s fun b =>
  completeG d (op s.g[a] s.g[b]) s

/-- GFADD (rule R111). -/
def execGfadd (gd ga gb : Byte) (s : State) : Res := fieldOp gfAdd gd ga gb s

/-- GFMUL (rule R112). -/
def execGfmul (gd ga gb : Byte) (s : State) : Res := fieldOp gfMul gd ga gb s

/-- GFINV (rule R113): DOMAIN_ERROR for `0x00`, the destination unchanged. -/
def execGfinv (gd ga : Byte) (s : State) : Res :=
  withOperand (gregOf gd) s fun d =>
  withOperand (gregOf ga) s fun a =>
  match gfInv s.g[a] with
  | none => raise .domainError 0 s
  | some v => completeG d v s

/-- GFRD (rule R114). -/
def execGfrd (ga : Byte) (s : State) : Res := withOperand (gregOf ga) s fun a => complete (zext32 s.g[a]) s

/-- LDB (rules R53, R115): absolute addressing; BAD_RANGE outside DMEM. -/
def execLdb (gd : Byte) (addr : Word32) (s : State) : Res :=
  withOperand (gregOf gd) s fun d =>
  if s.hasByte addr.toNat then completeG d (memRead s.dmem addr.toNat) s else raise .badRange 0 s

/-- STB (rules R53, R116). -/
def execStb (ga : Byte) (addr : Word32) (s : State) : Res :=
  withOperand (gregOf ga) s fun a =>
  if s.hasByte addr.toNat then complete 0 (s.setDmem (memWrite s.dmem addr.toNat s.g[a])) else raise .badRange 0 s

end Sys2Proof.Machine
end

