-- ==== Sys2Proof/Machine/MatrixFns.lean ====
section
/-! DEFINITION. Matrix values and the two matrix functions: rules R13, R130, R131 of 42_matrix_engine.md, and the block multiply of
rule R180 of 44_encoder.md. -/

namespace Sys2Proof.Machine

/-- A matrix value is one (rule R13): at most 255 rows and columns, and exactly the cells its dimensions say. -/
def MatrixVal.wf (x : MatrixVal) : Bool :=
  decide (x.rows ≤ 255) && decide (x.cols ≤ 255) && decide (x.cells.length = x.rows)
    && x.cells.all fun row => decide (row.length = x.cols)

/-- `X[r][c]` (rule R11), defined by the spec for `r < rows`, `c < cols` only; every command checks that first. Outside, the
total function answers `0x00` (log entry 10). -/
def MatrixVal.cell (x : MatrixVal) (r c : Nat) : Byte := (x.cells.getD r []).getD c 0x00

/-- The cell `(r, c)` exists: `r < rows` and `c < cols` (rule R24). -/
def MatrixVal.hasCell (x : MatrixVal) (r c : Nat) : Bool := decide (r < x.rows ∧ c < x.cols)

/-- The `rows × cols` matrix with the cells a function gives. -/
def matBuild (rows cols : Nat) (f : Nat → Nat → Byte) : MatrixVal :=
  ⟨rows, cols, (List.range rows).map fun r => (List.range cols).map fun c => f r c⟩

/-- The `rows × cols` matrix with every cell `0x00` (rule R135). -/
def matZero (rows cols : Nat) : MatrixVal := matBuild rows cols fun _ _ => 0x00

/-- `I_s` (rule R13). -/
def matIdentity (s : Nat) : MatrixVal := matBuild s s fun r c => if r = c then 0x01 else 0x00

/-- `X[r][c] <- v`, other cells and the dimensions unchanged (rules R136, R138). -/
def MatrixVal.setCell (x : MatrixVal) (r c : Nat) (v : Byte) : MatrixVal :=
  { x with cells := x.cells.set r ((x.cells.getD r []).set c v) }

/-- `MatMul(A, B)` (rule R130). -/
def matMul (a b : MatrixVal) : MatrixVal :=
  matBuild a.rows b.cols fun i j => xorSum a.cols fun t => gfMul (a.cell i t) (b.cell t j)

/-- Row `r` of `W` beside row `r` of `X`, while `Invert` runs (rule R131). -/
structure RowPair where
  w : List Byte
  x : List Byte
  deriving DecidableEq, Repr

/-- The outcome of `Invert` (rule R131). -/
inductive InvertResult where
  | ok (x : MatrixVal)
  | singular (column : Nat)
  deriving DecidableEq, Repr

/-- `W[r][c]` of a list of row pairs. -/
def pairCell (rows : List RowPair) (r c : Nat) : Byte := (rows.getD r ⟨[], []⟩).w.getD c 0x00

/-- The smallest `r` with `c ≤ r < s` and `W[r][c] ≠ 0x00` (rule R131). -/
def pivotRow (rows : List RowPair) (s c : Nat) : Option Nat :=
  (List.range s).find? fun r => decide (c ≤ r) && pairCell rows r c != 0x00

/-- Swap rows `c` and `piv` of `W` and of `X` (rule R131). -/
def swapRows (rows : List RowPair) (c piv : Nat) : List RowPair :=
  (rows.set c (rows.getD piv ⟨[], []⟩)).set piv (rows.getD c ⟨[], []⟩)

/-- Multiply a row by `f` (rule R131). -/
def scaleRow (f : Byte) (row : RowPair) : RowPair := ⟨row.w.map (gfMul f), row.x.map (gfMul f)⟩

/-- Add `e` times the pivot row to a row (rule R131). -/
def addScaledRow (e : Byte) (pivot row : RowPair) : RowPair :=
  ⟨List.zipWith (fun v p => gfAdd v (gfMul e p)) row.w pivot.w, List.zipWith (fun v p => gfAdd v (gfMul e p)) row.x pivot.x⟩

/-- Eliminate column `c` from a row that is not the pivot row (rule R131). -/
def eliminateRow (pivot : RowPair) (c : Nat) (row : RowPair) : RowPair :=
  if row.w.getD c 0x00 = 0x00 then row else addScaledRow (row.w.getD c 0x00) pivot row

/-- One column of `Invert` once its pivot stands in row `c`: scale row `c` by the inverse of its pivot, eliminate all other
rows (rule R131). None when the pivot is `0x00`, which rule R131 never reaches. -/
def reduceColumn (rows : List RowPair) (c : Nat) : Option (List RowPair) :=
  match gfInv (pairCell rows c c) with
  | none => none
  | some f =>
    let pivot := scaleRow f (rows.getD c ⟨[], []⟩)
    some (rows.mapIdx fun r row => if r = c then pivot else eliminateRow pivot c row)

/-- One column of `Invert` (rule R131); none when no pivot is found. -/
def invertColumn (s : Nat) (rows : List RowPair) (c : Nat) : Option (List RowPair) :=
  match pivotRow rows s c with
  | none => none
  | some piv => reduceColumn (swapRows rows c piv) c

/-- The columns of `Invert`, in the order listed (rule R131). -/
def invertColumns (s : Nat) : List RowPair → List Nat → InvertResult
  | rows, [] => .ok ⟨s, s, rows.map RowPair.x⟩
  | rows, c :: cs =>
    match invertColumn s rows c with
    | none => .singular c
    | some rows' => invertColumns s rows' cs

/-- `W` and `X` at the start: `A` beside `I_s` (rule R131). -/
def beside (a : MatrixVal) : List RowPair := List.zipWith RowPair.mk a.cells (matIdentity a.rows).cells

/-- `Invert(A)` for a square matrix value (rule R131): column by column, ascending. -/
def invert (a : MatrixVal) : InvertResult := invertColumns a.rows (beside a) (List.range a.rows)

/-- Byte `j` of block `t` in a list of blocks. -/
def blockByte (blocks : List (List Byte)) (t j : Nat) : Byte := (blocks.getD t []).getD j 0x00

/-- `BlockMul(X, in, L)` (rule R180). -/
def blockMul (x : MatrixVal) (blocks : List (List Byte)) (len : Nat) : List (List Byte) :=
  (List.range x.rows).map fun i => (List.range len).map fun j =>
    xorSum x.cols fun t => gfMul (x.cell i t) (blockByte blocks t j)

end Sys2Proof.Machine
end

