-- ==== Sys2Proof/Machine/Coding.lean ====
section
/-! DEFINITION. What the encoder and the decoder share: regions and blocks of DMEM (rules R54, R55), the checks and the selection of
presented indices (rules R201, R202), the submatrix (rule R203). -/

namespace Sys2Proof.Machine

/-- `RegionsOk(ns, nd)` (rule R54): both regions inside DMEM, and no overlap. -/
def State.regionsOk (s : State) (ns nd : Nat) : Bool :=
  let srcLo := s.src.toNat
  let srcHi := s.src.toNat + ns * s.blen.toNat
  let dstLo := s.dst.toNat
  let dstHi := s.dst.toNat + nd * s.blen.toNat
  decide (srcHi ≤ s.dmemBytes.toNat) && decide (dstHi ≤ s.dmemBytes.toNat)
    && !decide (0 < ns * s.blen.toNat ∧ 0 < nd * s.blen.toNat ∧ srcLo < dstHi ∧ dstLo < srcHi)

/-- Block number `t` of the source region: the `BLEN` bytes at `SRC + t * BLEN` (rule R55). -/
def State.sourceBlock (s : State) (t : Nat) : List Byte := memReadBytes s.dmem (s.src.toNat + t * s.blen.toNat) s.blen.toNat

/-- The bytes of `count` blocks back to back, as the destination region holds them (rules R55, R181, R205). -/
def regionBytes (blocks : List (List Byte)) (count len : Nat) : List Byte :=
  (List.range count).flatMap fun i => (List.range len).map fun j => blockByte blocks i j

/-- Write `count` blocks to the destination region `[DST, DST + count * BLEN)` (rules R55, R181, R205). -/
def State.writeDestination (s : State) (blocks : List (List Byte)) (count : Nat) : State :=
  s.setDmem (memWriteBytes s.dmem s.dst.toNat (regionBytes blocks count s.blen.toNat))

/-- `PIDX[0 .. PCNT-1]`: the presented indices, by slot (rules R27, R201). -/
def State.presented (s : State) : List Byte := s.pidx.toList.take s.pcnt.toNat

/-- The lowest slot whose index is `n` or more, or equals the index of a lower slot (rules R201, R282). -/
def firstBadSlot (n : Nat) (indices : List Byte) : Option Nat :=
  (List.range indices.length).find? fun t =>
    decide (n ≤ (indices.getD t 0).toNat) || (indices.take t).contains (indices.getD t 0)

/-- `sel`: the `k` smallest of the presented indices, ascending (rule R201). -/
def selectLowest (k : Nat) (indices : List Byte) : List Nat :=
  ((List.range 256).filter fun v => (indices.map BitVec.toNat).contains v).take k

/-- `slot[t]`: the slot that holds an index (rule R201). -/
def slotOf (indices : List Byte) (index : Nat) : Nat := indices.findIdx fun v => v.toNat == index

/-- `SubMatrix(sel)`: row `t` is row `sel[t]` of the generator bank (rule R203). -/
def subMatrix (generator : MatrixVal) (sel : List Nat) (k : Nat) : MatrixVal :=
  matBuild k k fun t c => generator.cell (sel.getD t 0) c

end Sys2Proof.Machine
end

