-- ==== Sys2Proof/Machine/Decoder.lean ====
section
/-! DEFINITION. DEC: recover the k data blocks from presented shards (rules R201 to R208 of 45_decoder.md). -/

namespace Sys2Proof.Machine

/-- `sel` of rule R201. -/
def State.selection (s : State) : List Nat := selectLowest s.k.toNat s.presented

/-- `B` of rule R205: the submatrix of the selected rows. -/
def State.selectedMatrix (s : State) : MatrixVal := subMatrix s.banks[0] s.selection s.k.toNat

/-- `in` of rule R205: the selected shards, in the order of `sel`. -/
def State.selectedBlocks (s : State) : List (List Byte) :=
  s.selection.map fun index => s.sourceBlock (slotOf s.presented index)

/-- `CheckIndices` (rules R201, R202): the status and information word it raises, or none when the indices pass. -/
def State.checkIndices (s : State) : Option (Status × Word32) :=
  match firstBadSlot s.n.toNat s.presented with
  | some slot => some (.dupOrRangeIndex, infoWord slot)
  | none => if s.pcnt.toNat < s.k.toNat then some (.insufficientShards, zext32 s.pcnt) else none

/-- The state after recovery with the inverse `x` of the selected matrix (rules R205, R206): `M[1]`, `M[2]` and the destination
region. -/
def State.recover (s : State) (x : MatrixVal) : State :=
  ((s.setBank 1 s.selectedMatrix).setBank 2 x).writeDestination (blockMul x s.selectedBlocks s.blen.toNat) s.k.toNat

/-- DEC (rule R205): NOT_CONFIGURED, the index checks, BAD_RANGE, SINGULAR (the arm rule R207 keeps), recovery. -/
def execDec (s : State) : Res :=
  if s.cfgok then
    match s.checkIndices with
    | some (status, info) => raise status info s
    | none =>
      if s.regionsOk s.pcnt.toNat s.k.toNat then
        match invert s.selectedMatrix with
        | .singular column => raise .singular (infoWord column) s
        | .ok x => complete 0 (s.recover x)
      else raise .badRange 0 s
  else raise .notConfigured 0 s

end Sys2Proof.Machine
end

