-- ==== Sys2Proof/Machine/Encoder.lean ====
section
/-! DEFINITION. ENC: encode k data blocks into n shards (rule R181 of 44_encoder.md). -/

namespace Sys2Proof.Machine

/-- `out` of rule R181: the generator bank times the `K` source blocks. -/
def State.encodedBlocks (s : State) : List (List Byte) :=
  blockMul s.banks[0] ((List.range s.k.toNat).map s.sourceBlock) s.blen.toNat

/-- ENC (rule R181): NOT_CONFIGURED, then BAD_RANGE, then the `N` shards are written to the destination region. -/
def execEnc (s : State) : Res :=
  if s.cfgok then
    if s.regionsOk s.k.toNat s.n.toNat then complete 0 (s.writeDestination s.encodedBlocks s.n.toNat)
    else raise .badRange 0 s
  else raise .notConfigured 0 s

end Sys2Proof.Machine
end

