-- ==== Sys2Proof/Machine/Generator.lean ====
section
/-! DEFINITION. The generator matrix `Gen(k, n)` and the parameter check: rules R160, R163, R164 of 43_generator_cfg.md. -/

namespace Sys2Proof.Machine

/-- The evaluation point `x_i`, the byte `i + 1` (rule R160). -/
def evalPoint (i : Nat) : Byte := BitVec.ofNat 8 (i + 1)

/-- The `n × k` Vandermonde matrix `V[i][j] = gf_pow(x_i, j)` (rule R160). Its first `k` rows are `Vtop`. -/
def vandermonde (n k : Nat) : MatrixVal := matBuild n k fun i j => gfPow (evalPoint i) j

/-- `T`, the inverse of `Vtop` (rule R160). `Invert(Vtop)` is never `Singular` for `1 ≤ k ≤ 255` (rule R161 b); the arm that makes
the function total answers the zero matrix (log entry 5). -/
def topInverse (k : Nat) : MatrixVal :=
  match invert (vandermonde k k) with
  | .ok x => x
  | .singular _ => matZero k k

/-- `Gen(k, n) = MatMul(V, T)` (rule R160). -/
def gen (k n : Nat) : MatrixVal := matMul (vandermonde n k) (topInverse k)

/-- `CheckParams(k, n)` (rules R163, R164): the information word of INVALID_PARAMETERS, or none when the parameters pass. -/
def checkParams (k n : BitVec 16) : Option Word32 :=
  if k.toNat = 0 then some 1
  else if n.toNat < k.toNat then some 2
  else if 255 < n.toNat then some 3
  else none

end Sys2Proof.Machine
end

