-- ==== Sys2Proof/Machine/GeneratorCfg.lean ====
section
/-! DEFINITION. CFG: set the code parameters and build the generator matrix (rule R165 of 43_generator_cfg.md). -/

namespace Sys2Proof.Machine

/-- `K`, `N`, `CFGOK` and `M[0]` after a successful CFG (rules R32, R165). -/
def State.configure (s : State) (k n : BitVec 16) : State :=
  { s.setBank 0 (gen k.toNat n.toNat) with k := k.extractLsb' 0 8, n := n.extractLsb' 0 8, cfgok := true }

/-- CFG (rule R165). -/
def execCfg (k n : BitVec 16) (s : State) : Res :=
  match checkParams k n with
  | some info => raise .invalidParameters info s
  | none => complete 0 (s.configure k n)

end Sys2Proof.Machine
end

