-- ==== Sys2Proof/Machine/MatrixEngine.lean ====
section
/-! DEFINITION. The matrix engine: MDIM, MWRI, MGET, MPUT, MMUL, MINV (42_matrix_engine.md). Bank 0 is never a destination
(rule R25). -/

namespace Sys2Proof.Machine

/-- Run `rest` on an existing cell of a bank, or answer DIM_ERROR (rules R136 to R138). -/
def withCell (x : MatrixVal) (row col : Byte) (s : State) (rest : Res) : Res :=
  if x.hasCell row.toNat col.toNat then rest else raise .dimError 0 s

/-- Write one cell of a destination bank (rules R136, R138). -/
def writeCell (md row col v : Byte) (s : State) : Res :=
  withOperand (destBankOf md) s fun d =>
  withCell s.banks[d] row col s (complete 0 (s.setBank d (s.banks[d].setCell row.toNat col.toNat v)))

/-- MDIM (rule R135). -/
def execMdim (md rows cols : Byte) (s : State) : Res :=
  withOperand (destBankOf md) s fun d => complete 0 (s.setBank d (matZero rows.toNat cols.toNat))

/-- MWRI (rule R136). -/
def execMwri (md row col value : Byte) (s : State) : Res := writeCell md row col value s

/-- MGET (rule R137): bank 0 is a legal source. -/
def execMget (ma row col : Byte) (gd : BitVec 4) (s : State) : Res :=
  withOperand (bankOf ma) s fun a =>
  withCell s.banks[a] row col s
    (complete (zext32 (s.banks[a].cell row.toNat col.toNat))
      (s.setG (nibbleReg gd) (s.banks[a].cell row.toNat col.toNat)))

/-- MPUT (rule R138). -/
def execMput (md row col : Byte) (ga : BitVec 4) (s : State) : Res := writeCell md row col s.g[nibbleReg ga] s

/-- MMUL (rule R139): the product of the pre-state's banks replaces the whole destination bank. -/
def execMmul (md ma mb : Byte) (s : State) : Res :=
  withOperand (destBankOf md) s fun d =>
  withOperand (bankOf ma) s fun a =>
  withOperand (bankOf mb) s fun b =>
  if s.banks[a].cols = s.banks[b].rows then complete 0 (s.setBank d (matMul s.banks[a] s.banks[b]))
  else raise .dimError 0 s

/-- MINV (rule R140): DIM_ERROR unless square, SINGULAR with the column of rule R131. -/
def execMinv (md ma : Byte) (s : State) : Res :=
  withOperand (destBankOf md) s fun d =>
  withOperand (bankOf ma) s fun a =>
  if s.banks[a].rows = s.banks[a].cols then
    match invert s.banks[a] with
    | .singular column => raise .singular (infoWord column) s
    | .ok x => complete 0 (s.setBank d x)
  else raise .dimError 0 s

end Sys2Proof.Machine
end

