-- ==== Sys2Proof/Machine/System.lean ====
section
/-! DEFINITION. System and control commands: NOP, SRST, CRW, CRR, PIDXW, PIDXR (46_system_commands.md). -/

namespace Sys2Proof.Machine

/-- NOP (rule R230): only the response and the count. -/
def execNop (s : State) : Res := complete 0 s

/-- SRST (rule R231): the reset state, DMEM kept; `CCNT` is 0 and is not incremented after this. -/
def execSrst (s : State) : Res := .next s.resetKeepingDmem

/-- CRW (rule R232): write SRC, DST, BLEN or PCNT. -/
def execCrw (cr : Byte) (value : Word32) (s : State) : Res :=
  withOperand (crWrite cr value s) s fun s' => complete 0 s'

/-- CRR (rule R233): read a control register; `CCNT` as it was before this command. -/
def execCrr (cr : Byte) (s : State) : Res := withOperand (crRead cr s) s fun v => complete v s

/-- PIDXW (rule R234): write a presented-index slot; no check of the index. -/
def execPidxw (slot index : Byte) (s : State) : Res := complete 0 (s.setPidx slot index)

/-- PIDXR (rule R235): read a presented-index slot. -/
def execPidxr (slot : Byte) (s : State) : Res := complete (zext32 (s.pidxAt slot)) s

end Sys2Proof.Machine
end

