-- ==== Sys2Proof/Machine/Dispatch.lean ====
section
/-! DEFINITION. The dispatch of a decoded command to its meaning, one arm per command (rule R75, steps 2 to 5). -/

namespace Sys2Proof.Machine

def exec (i : Instr) (s : State) : Host.Outcome State Fault Refusal :=
  match i with
  | .nop => Sys2Proof.Machine.execNop s
  | .srst => Sys2Proof.Machine.execSrst s
  | .cfg k n => Sys2Proof.Machine.execCfg k n s
  | .crw cr value => Sys2Proof.Machine.execCrw cr value s
  | .crr cr => Sys2Proof.Machine.execCrr cr s
  | .pidxw slot index => Sys2Proof.Machine.execPidxw slot index s
  | .pidxr slot => Sys2Proof.Machine.execPidxr slot s
  | .gfldi gd value => Sys2Proof.Machine.execGfldi gd value s
  | .gfadd gd ga gb => Sys2Proof.Machine.execGfadd gd ga gb s
  | .gfmul gd ga gb => Sys2Proof.Machine.execGfmul gd ga gb s
  | .gfinv gd ga => Sys2Proof.Machine.execGfinv gd ga s
  | .gfrd ga => Sys2Proof.Machine.execGfrd ga s
  | .ldb gd addr => Sys2Proof.Machine.execLdb gd addr s
  | .stb ga addr => Sys2Proof.Machine.execStb ga addr s
  | .mdim md rows cols => Sys2Proof.Machine.execMdim md rows cols s
  | .mwri md row col value => Sys2Proof.Machine.execMwri md row col value s
  | .mget ma row col gd => Sys2Proof.Machine.execMget ma row col gd s
  | .mput md row col ga => Sys2Proof.Machine.execMput md row col ga s
  | .mmul md ma mb => Sys2Proof.Machine.execMmul md ma mb s
  | .minv md ma => Sys2Proof.Machine.execMinv md ma s
  | .enc => Sys2Proof.Machine.execEnc s
  | .dec => Sys2Proof.Machine.execDec s

end Sys2Proof.Machine
end

