-- ==== Sys2Proof/Machine/HostPort.lean ====
section
/-! DEFINITION. What one action of the host does to the core: a command word (rules R74, R75, R77), a write to DMEM while the
core is idle (rule R64), the reset input (rules R310, R311). -/

namespace Sys2Proof.Machine

/-- Execute a command word (rule R75): decode, then the command; a word that is no command answers ILLEGAL_COMMAND (rule R77). -/
def runCommand (w : Command) (s : State) : Res :=
  match decode w with
  | .ok i => exec i s
  | .error _ => illegalCommand s

/-- The host replaces bytes of DMEM (rule R64); an address that is no byte of DMEM stops the machine (log entry 7). -/
def runDmemWrite (cells : List Host.Cell) (s : State) : Res :=
  match cells.find? fun c => !s.hasByte c.1 with
  | some c => .fault (.noSuchAddress c.1)
  | none => .next (s.setDmem (memWriteCells s.dmem cells))

/-- The reset input, while the core is idle (rule R310): DMEM unchanged. -/
def runReset (s : State) : Res := .next s.resetKeepingDmem

/-- The addresses a command that would succeed writes: the address of an STB, the destination region of ENC and DEC (rule R311). -/
def commandWrites (i : Instr) (s : State) : List Nat :=
  match i with
  | .stb _ addr => [addr.toNat]
  | .enc => (List.range (s.n.toNat * s.blen.toNat)).map (s.dst.toNat + ·)
  | .dec => (List.range (s.k.toNat * s.blen.toNat)).map (s.dst.toNat + ·)
  | .nop | .srst | .cfg _ _ | .crw _ _ | .crr _ | .pidxw _ _ | .pidxr _ => []
  | .gfldi _ _ | .gfadd _ _ _ | .gfmul _ _ _ | .gfinv _ _ | .gfrd _ | .ldb _ _ => []
  | .mdim _ _ _ | .mwri _ _ _ _ | .mget _ _ _ _ | .mput _ _ _ _ | .mmul _ _ _ | .minv _ _ => []

/-- The bytes of DMEM that a reset during command word `w` leaves unspecified (rule R311): those the command might have written.
A command that fails writes none (rule R56). -/
def interruptedWrites (w : Command) (s : State) : List Nat :=
  match decode w with
  | .error _ => []
  | .ok i =>
    match exec i s with
    | .next t => if t.status = .ok then commandWrites i s else []
    | .fault _ => []
    | .refused _ => []

/-- The reset input, while command word `w` executes (rule R311): the reset state, with free values in the bytes the command
might have written. Log entry 6. -/
def runResetDuring (w : Command) (s : State) : Res :=
  let freeCells := (interruptedWrites w s).map fun addr => (addr, Config.unspecifiedByte s.fresh addr)
  .next { (s.setDmem (memWriteCells s.dmem freeCells)).resetKeepingDmem with fresh := s.fresh + 1 }

/-- One action of the host. -/
def runInput (input : HostInput) (s : State) : Res :=
  match input with
  | .command w => runCommand w s
  | .dmemWrite cells => runDmemWrite cells s
  | .reset => runReset s
  | .resetDuring w => runResetDuring w s

/-- Present a command word next: it stands before everything else the host is going to do. -/
def State.presentNext (s : State) (w : Command) : State := { s with inputs := .command w :: s.inputs }

end Sys2Proof.Machine
end

