-- ==== Sys2Proof/Machine/Step.lean ====
section
/-! DEFINITION. One step of the machine: the host's next action, or nothing while the core is idle (rules R36, R59, R74, R298).

The core fetches nothing (rule R36): the host presents each command. `State.inputs` holds what the host will do, oldest first, and a
step consumes one entry. -/

namespace Sys2Proof.Machine

/-- One step. With no input the core waits, and all state survives (rule R298). -/
def step (s : State) : Host.Outcome State Fault Refusal :=
  match s.inputs with
  | [] => .next s
  | input :: rest => runInput input { s with inputs := rest }

/-- `s` with the instruction whose bits are `w`, numbered as spec/opcode_table.json numbers them, presented next (log entries
1 and 16). -/
def State.withFetchWord (s : State) (nbits w : Nat) : State := s.presentNext (tableWord nbits w)

end Sys2Proof.Machine
end

