-- ==== Sys2Proof/Machine/HostSide.lean ====
section
/-! DEFINITION. The host procedures Encode and Decode, the metadata record and the integrity contract (47_host_procedures.md).

They are not part of the core: they present host actions to it and read its response and its DMEM (rule R5). They add no
state and no command. Log entry 11. -/

namespace Sys2Proof.Machine

/-- The metadata record (rule R251). -/
structure HostMetadata where
  originalLength : Nat
  padding : Nat
  blockSize : Nat
  k : Nat
  n : Nat
  contentHash : BitVec 256
  deriving DecidableEq, Repr

/-- How a host procedure fails (rule R257). -/
inductive HostError where
  /-- `InvalidParameters`, from CFG, or a value that does not fit CFG's 16-bit fields (rule R255). -/
  | invalidParameters
  /-- `InsufficientShards`, from DEC. -/
  | insufficientShards
  /-- `DuplicateOrOutOfRangeIndex`, from DEC, or from the host for pairs that PIDX and PCNT cannot hold (rule R256). -/
  | duplicateOrOutOfRangeIndex
  /-- `Singular`, from DEC. -/
  | singular
  /-- `IntegrityMismatch`, from the host's digest comparison (rule R258). -/
  | integrityMismatch
  /-- The buffers do not fit DMEM at the addresses the host chose: a resource limit, no error of the source (rule R255). -/
  | doesNotFit
  /-- A presented block is not `blockSize` bytes long, which the host must refuse (rule R256). -/
  | blockLength
  deriving DecidableEq, Repr

/-- `block_size = ceil(L / k)` (rule R253). -/
def hostBlockSize (length k : Nat) : Nat := (length + k - 1) / k

/-- `padded_length` (rule R253). -/
def hostPaddedLength (length k : Nat) : Nat := hostBlockSize length k * k

/-- `padding` (rule R253). -/
def hostPadding (length k : Nat) : Nat := hostPaddedLength length k - length

/-- The input followed by its padding bytes `0x00` (rules R253, R255). -/
def hostPadded (data : List Byte) (k : Nat) : List Byte := data ++ List.replicate (hostPadding data.length k) 0x00

/-- Bytes at consecutive addresses from `base`, as one host write (rule R64). -/
def hostWriteAt (base : Nat) (bytes : List Byte) : HostInput := .dmemWrite (bytes.mapIdx fun j v => (base + j, v))

/-- Present host actions one at a time to an idle core, each after the one before has completed (rules R74, R313 a). -/
def presentAll : List HostInput → State → Res
  | [], s => .next s
  | input :: rest, s =>
    match step { s with inputs := [input] } with
    | .next t => presentAll rest t
    | .fault r => .fault r
    | .refused r => .refused r

/-- Two regions of `size` bytes inside DMEM with no address in common (rules R14, R54, R255, R256). -/
def hostRegionsFit (s : State) (src srcSize dst dstSize : Nat) : Bool :=
  decide (src + srcSize ≤ s.dmemBytes.toNat) && decide (dst + dstSize ≤ s.dmemBytes.toNat)
    && !decide (0 < srcSize ∧ 0 < dstSize ∧ src < dst + dstSize ∧ dst < src + srcSize)

/-- The commands that set SRC, DST and BLEN (rules R255, R256). -/
def hostSetRegions (src dst blockSize : Nat) : List HostInput :=
  [.command (encode (.crw 3 (BitVec.ofNat 32 src))), .command (encode (.crw 4 (BitVec.ofNat 32 dst))),
    .command (encode (.crw 5 (BitVec.ofNat 32 blockSize)))]

/-- Issue CFG (rules R255, R256, step 1): the configured core, or InvalidParameters. Rule R255 names that error for a `k` or `n` of
Encode that does not fit CFG's 16-bit fields; for such a value in Decode's metadata rule R256 names none, and that the model answers
the same one is DESIGN CHOICE (log entry 18). -/
def hostConfigure (s : State) (k n : Nat) : Except HostError State :=
  if 65535 < k ∨ 65535 < n then .error .invalidParameters
  else
    match presentAll [.command (encode (.cfg (BitVec.ofNat 16 k) (BitVec.ofNat 16 n)))] s with
    | .next t => if t.status = .ok then .ok t else .error .invalidParameters
    | .fault _ => .error .invalidParameters
    | .refused _ => .error .invalidParameters

/-- What Encode returns (rule R250), with the core as it leaves it. -/
structure HostEncoded where
  shards : List (List Byte)
  metadata : HostMetadata
  core : State
  deriving DecidableEq, Repr

/-- The metadata of an encode (rule R255, step 6). -/
def hostMetadataOf (data : List Byte) (k n : Nat) : HostMetadata where
  originalLength := data.length
  padding := hostPadding data.length k
  blockSize := hostBlockSize data.length k
  k := k
  n := n
  contentHash := Config.contentHash data

/-- Encode (rule R255), with the padded data at `src` and the shards at `dst`. -/
def hostEncode (s : State) (data : List Byte) (k n src dst : Nat) : Except HostError HostEncoded :=
  match hostConfigure s k n with
  | .error e => .error e
  | .ok s1 =>
    let size := hostBlockSize data.length k
    if hostRegionsFit s1 src (k * size) dst (n * size) then
      match presentAll
          (hostWriteAt src (hostPadded data k) :: hostSetRegions src dst size ++ [.command (encode .enc)]) s1 with
      | .next s2 =>
        .ok ⟨(List.range n).map fun i => memReadBytes s2.dmem (dst + i * size) size, hostMetadataOf data k n, s2⟩
      | .fault _ => .error .doesNotFit
      | .refused _ => .error .doesNotFit
    else .error .doesNotFit

/-- The commands that fill PIDX and PCNT (rule R256, step 2). -/
def hostSetIndices (indices : List Nat) : List HostInput :=
  (indices.mapIdx fun j index => .command (encode (.pidxw (BitVec.ofNat 8 j) (BitVec.ofNat 8 index))))
    ++ [.command (encode (.crw 6 (BitVec.ofNat 32 indices.length)))]

/-- The last steps of Decode (rule R256, steps 4 to 7; rule R258): truncate, compare digests. Where `originalLength` is more than the
recovered buffer holds, rule R256 does not say what its first bytes are; that the model keeps the whole buffer and goes on to the
comparison is DESIGN CHOICE (log entry 19). -/
def hostFinishDecode (padded : List Byte) (metadata : HostMetadata) : Except HostError (List Byte) :=
  let result := padded.take metadata.originalLength
  if Config.contentHash result = metadata.contentHash then .ok result else .error .integrityMismatch

/-- The response of DEC as the host reads it (rule R256, step 3; rule R257). -/
def hostDecodeError : Status → HostError
  | .dupOrRangeIndex => .duplicateOrOutOfRangeIndex
  | .insufficientShards => .insufficientShards
  | .singular => .singular
  | .integrityMismatch => .integrityMismatch
  | .invalidParameters | .notConfigured => .invalidParameters
  | .ok | .domainError | .illegalCommand | .badOperand | .dimError | .badRange => .doesNotFit

/-- Decode (rule R256): `(index, block)` pairs presented from `src`, the blocks recovered at `dst`. -/
def hostDecode (s : State) (presented : List (Nat × List Byte)) (metadata : HostMetadata) (src dst : Nat) :
    Except HostError (List Byte) :=
  if presented.any fun p => p.2.length != metadata.blockSize then .error .blockLength
  else
    match hostConfigure s metadata.k metadata.n with
    | .error e => .error e
    | .ok s1 =>
      if 255 < presented.length ∨ (presented.any fun p => decide (255 < p.1)) = true then .error .duplicateOrOutOfRangeIndex
      else if hostRegionsFit s1 src (presented.length * metadata.blockSize) dst (metadata.k * metadata.blockSize) then
        match presentAll
            (hostWriteAt src (presented.flatMap Prod.snd) :: hostSetIndices (presented.map Prod.fst)
              ++ hostSetRegions src dst metadata.blockSize ++ [.command (encode .dec)]) s1 with
        | .next s2 =>
          if s2.status = .ok then hostFinishDecode (memReadBytes s2.dmem dst (metadata.k * metadata.blockSize)) metadata
          else .error (hostDecodeError s2.status)
        | .fault _ => .error .doesNotFit
        | .refused _ => .error .doesNotFit
      else .error .doesNotFit

end Sys2Proof.Machine
end

