-- ==== Sys2Proof/Safety.lean ====
section
/-! DEFINITION. What a state can rely on, and what counts as a run without error, in the terms statements use.

The invariant is rule R42 of 10_state.md with the model's own canonical form of DMEM beside it. -/

namespace Sys2Proof.Machine

/-- Every bank holds a matrix value (rules R13, R42 a). -/
def State.banksWf (s : State) : Prop := ∀ b : Fin 4, s.banks[b].wf = true

/-- The configuration is valid and `M[0]` is `Gen(K, N)`, or there is none and `K`, `N`, `M[0]` are cleared (rules R25, R42 b, c). -/
def State.configWf (s : State) : Prop :=
  if s.cfgok then 1 ≤ s.k.toNat ∧ s.k.toNat ≤ s.n.toNat ∧ s.banks[0] = gen s.k.toNat s.n.toNat
  else s.k = 0 ∧ s.n = 0 ∧ s.banks[0] = ⟨0, 0, []⟩

/-- DMEM is in its canonical form and lists bytes of DMEM only (rule R50). -/
def State.dmemWf (s : State) : Prop := s.dmem.wf = true ∧ ∀ e ∈ s.dmem, e.1 < s.dmemBytes.toNat

/-- The invariant of every reachable state (rule R42). -/
structure State.Inv (s : State) : Prop where
  banksWf : s.banksWf
  configWf : s.configWf
  dmemWf : s.dmemWf

/-- A step answered a state whose response says that no error was raised (rule R280 leaves such a predicate to the model). -/
def errorFree : Res → Bool
  | .next t => decide (t.status = .ok)
  | .fault _ => false
  | .refused _ => false

end Sys2Proof.Machine
end

