-- ==== Sys2Proof/Certificates/Slice0/Obligations.lean ====
section
/-! DEFINITION. The statements about the model, from the numbered rules of spec/.

A statement of a command's rule says: which words are illegal, how its word decodes, which operands are refused, and the exact next
state of `exec`, so that everything the state update does not name is unchanged. -/

namespace Sys2Proof.Claims

open Sys2Proof.Machine

/-- `{op, a, b, c, imm}` (rule R70). -/
abbrev word (op a b c : Byte) (imm : Word32) : Command := op ++ a ++ b ++ c ++ imm

/-- `s` after a command that completed with `RVAL = v` and changed nothing else (rule R75, steps 4 and 5). -/
abbrev answered (s : State) (v : Word32) : State := { s with status := .ok, rval := v, ccnt := s.ccnt + 1 }

/-- `s` after a command that raised a status (rule R76). -/
abbrev failed (s : State) (status : Status) (info : Word32) : State :=
  { s with status := status, rval := info, ccnt := s.ccnt + 1 }

/-- The field that names scalar register `r`. -/
abbrev regField (r : Fin 16) : Byte := BitVec.ofNat 8 r.val

/-- The field that names bank `b`. -/
abbrev bankField (b : Fin 4) : Byte := BitVec.ofNat 8 b.val

/-- Presented to any state, a word with this opcode whose other fields do not meet `legal` answers ILLEGAL_COMMAND (rule R77). -/
def IllegalUnless (op : Byte) (legal : Byte → Byte → Byte → Word32 → Prop) : Prop :=
  ∀ (s : State) (a b c : Byte) (imm : Word32), ¬ legal a b c imm →
    step (s.presentNext (word op a b c imm)) = .next (failed s .illegalCommand 0)

/-- The reset values of rule R310 but those of DMEM and of the constants. -/
def ResetValues (t : State) : Prop :=
  (∀ r : Fin 16, t.g[r] = 0x00) ∧ (∀ b : Fin 4, t.banks[b] = ⟨0, 0, []⟩) ∧ t.k = 0 ∧ t.n = 0 ∧ t.cfgok = false ∧ t.config = 0
    ∧ t.src = 0 ∧ t.dst = 0 ∧ t.blen = 0 ∧ t.pcnt = 0 ∧ (∀ slot : Fin 256, t.pidx[slot] = 0x00)
    ∧ t.status = .ok ∧ t.rval = 0 ∧ t.ccnt = 0

/-- `RegionsOk(ns, nd)`, as rule R54 writes it. -/
def RegionsOk (s : State) (ns nd : Nat) : Prop :=
  s.src.toNat + ns * s.blen.toNat ≤ s.dmemBytes.toNat ∧ s.dst.toNat + nd * s.blen.toNat ≤ s.dmemBytes.toNat
    ∧ ¬ (0 < ns * s.blen.toNat ∧ 0 < nd * s.blen.toNat
        ∧ s.src.toNat < s.dst.toNat + nd * s.blen.toNat ∧ s.dst.toNat < s.src.toNat + ns * s.blen.toNat)

/-- `PIDX[t]` as a number. -/
def index (s : State) (t : Nat) : Nat := (s.pidx.toList.getD t 0x00).toNat

/-- Slot `t` offends (rule R201): its index is `N` or more, or equals the index of a lower slot. -/
def BadSlot (s : State) (t : Nat) : Prop := s.n.toNat ≤ index s t ∨ ∃ u < t, index s u = index s t

/-- `CheckIndices` raises nothing (rule R201). -/
def IndicesOk (s : State) : Prop := (∀ t < s.pcnt.toNat, ¬ BadSlot s t) ∧ s.k.toNat ≤ s.pcnt.toNat

/-- `sel` and `slot` of rule R201: the `K` smallest presented indices in ascending order, and their slots. -/
def Selected (s : State) (sel slot : Nat → Nat) : Prop :=
  (∀ t u, t < u → u < s.k.toNat → sel t < sel u)
    ∧ (∀ t < s.k.toNat, slot t < s.pcnt.toNat ∧ index s (slot t) = sel t)
    ∧ ∀ p < s.pcnt.toNat, (∃ t < s.k.toNat, sel t = index s p) ∨ ∀ t < s.k.toNat, sel t < index s p

/-- Byte `j` of block `t` of the source region (rule R55). -/
def sourceByte (s : State) (t j : Nat) : Byte := memRead s.dmem (s.src.toNat + t * s.blen.toNat + j)

/-- The address of byte `j` of block `i` of the destination region (rule R55). -/
def destAddress (s : State) (i j : Nat) : Nat := s.dst.toNat + i * s.blen.toNat + j

/-- `a` is no byte of a destination region of `count` blocks. -/
def OutsideDestination (s : State) (count a : Nat) : Prop :=
  a < s.dst.toNat ∨ s.dst.toNat + count * s.blen.toNat ≤ a

/-- The polynomial over GF(2) whose coefficients are the bits of a byte (rule R101). -/
noncomputable def polynomialOf (a : Byte) : Polynomial (ZMod 2) :=
  ∑ i ∈ Finset.range 8, if a.getLsbD i then Polynomial.X ^ i else 0

/-- `x^8 + x^4 + x^3 + x + 1` (rule R101). -/
noncomputable def fieldPolynomial : Polynomial (ZMod 2) :=
  Polynomial.X ^ 8 + Polynomial.X ^ 4 + Polynomial.X ^ 3 + Polynomial.X + 1

/-- Column `c` of a matrix is a linear combination of its columns `0 .. c-1` (rule R133). -/
def ColumnDependent (a : MatrixVal) (c : Nat) : Prop :=
  ∃ coefficient : Nat → Byte, ∀ r < a.rows, a.cell r c = xorSum c fun t => gfMul (a.cell r t) (coefficient t)

/-- The scalar register a command names as its destination (rule R21). -/
def scalarDestination : Instr → Option Nat
  | .gfldi gd _ => some gd.toNat
  | .gfadd gd _ _ => some gd.toNat
  | .gfmul gd _ _ => some gd.toNat
  | .gfinv gd _ => some gd.toNat
  | .ldb gd _ => some gd.toNat
  | .mget _ _ _ gd => some gd.toNat
  | _ => none

/-- The banks a command writes (rules R19, R25, R206). -/
def bankDestinations : Instr → List Nat
  | .cfg _ _ => [0]
  | .mdim md _ _ => [md.toNat]
  | .mwri md _ _ _ => [md.toNat]
  | .mput md _ _ _ => [md.toNat]
  | .mmul md _ _ => [md.toNat]
  | .minv md _ => [md.toNat]
  | .dec => [1, 2]
  | _ => []

/-- The statuses a command can return besides ILLEGAL_COMMAND, which is the decoder's (rule R283). -/
def statusesOf : Instr → List Status
  | .nop | .srst | .pidxw _ _ | .pidxr _ => [.ok]
  | .cfg _ _ => [.ok, .invalidParameters]
  | .crw _ _ | .crr _ => [.ok, .badOperand]
  | .gfldi _ _ | .gfadd _ _ _ | .gfmul _ _ _ | .gfrd _ => [.ok, .badOperand]
  | .gfinv _ _ => [.ok, .badOperand, .domainError]
  | .ldb _ _ | .stb _ _ => [.ok, .badOperand, .badRange]
  | .mdim _ _ _ => [.ok, .badOperand]
  | .mwri _ _ _ _ | .mget _ _ _ _ | .mput _ _ _ _ => [.ok, .badOperand, .dimError]
  | .mmul _ _ _ => [.ok, .badOperand, .dimError]
  | .minv _ _ => [.ok, .badOperand, .dimError, .singular]
  | .enc => [.ok, .notConfigured, .badRange]
  | .dec => [.ok, .notConfigured, .dupOrRangeIndex, .insufficientShards, .badRange, .singular]

/-- The statuses whose information word is not always 0 (rule R282). -/
def statusesWithInfo : List Status := [.ok, .invalidParameters, .insufficientShards, .dupOrRangeIndex, .singular]

end Sys2Proof.Claims

section

open Sys2Proof Sys2Proof.Machine Sys2Proof.Claims

/-! ## Encoding -/

/-- Rules R70, R71, R82: no operand bit is dropped, for every command and every operand its word can hold. -/
def Obligations.DecodeOfEncode : Prop := ∀ i : Instr, decode (encode i) = .ok i

/-- Rules R77, R79: decoding is strict; a word that decodes is the word of its command. -/
def Obligations.EncodeOfDecode : Prop := ∀ (w : Command) (i : Instr), decode w = .ok i → encode i = w

/-- Rule R72: a word decodes to the row with `W & mask = match`, at most one row matches, and a word that matches none decodes to
no command. -/
def Obligations.DecodeFollowsOpcodeTable : Prop :=
  ∀ w : Command,
    (∀ i, decode w = .ok i → opcodeRow i ∈ opcodeTable ∧ w &&& (opcodeRow i).mask = (opcodeRow i).pattern)
    ∧ (∀ row ∈ opcodeTable, w &&& row.mask = row.pattern → ∃ i, decode w = .ok i ∧ opcodeRow i = row)
    ∧ ∀ row ∈ opcodeTable, ∀ other ∈ opcodeTable, w &&& row.mask = row.pattern → w &&& other.mask = other.pattern → row = other

/-- Words the spec writes out (rules R70, R110 to R116, R135 to R140, R165, R181, R205, R230 to R235) decode to what they stand for. -/
def Obligations.SpecWordsDecode : Prop :=
  decode 0x0304000000000010 = .ok (.crw 4 0x10) ∧ decode 0x1203010200000000 = .ok (.gfmul 3 1 2)
    ∧ decode 0x1903000000000010 = .ok (.stb 3 0x10) ∧ decode 0x2101000100000002 = .ok (.mwri 1 0 1 2)
    ∧ decode 0x2202010000000001 = .ok (.mget 2 1 0 1) ∧ decode 0x0200000001000003 = .ok (.cfg 3 256)
    ∧ decode 0x3000000000000000 = .ok .enc ∧ decode 0x3100000000000000 = .ok .dec
    ∧ decode 0x0700000000000000 = .error .undefinedOpcode ∧ decode 0x0001000000000000 = .error .reservedNotZero

/-! ## The step and the execution cycle -/

/-- Rules R36, R74, R75: a command word the host presents next, when it decodes, is executed by `exec`; the step consumes that one
input. That the host's inputs stand in a list of the state is the model's choice (log entry 1). -/
def Obligations.StepRunsDecodedCommand : Prop :=
  ∀ (s : State) (w : Command) (rest : List HostInput) (i : Instr),
    s.inputs = .command w :: rest → decode w = .ok i → step s = exec i { s with inputs := rest }

/-- Rule R77: a word that matches no row of the opcode table answers ILLEGAL_COMMAND with `RVAL = 0`, and a word that matches a row
never does. -/
def Obligations.IllegalCommandExactlyForOtherWords : Prop :=
  ∀ (s : State) (w : Command),
    ((∀ row ∈ opcodeTable, w &&& row.mask ≠ row.pattern) → step (s.presentNext w) = .next (failed s .illegalCommand 0))
    ∧ ((∃ row ∈ opcodeTable, w &&& row.mask = row.pattern) →
        ∀ t, step (s.presentNext w) = .next t → t.status ≠ .illegalCommand)

/-- Rule R298: an idle core keeps all its state. -/
def Obligations.IdleCoreKeepsState : Prop := ∀ s : State, s.inputs = [] → step s = .next s

/-- Rule R78: BAD_OPERAND with `RVAL = 0` is answered exactly by the commands whose operands its table refuses. -/
def Obligations.BadOperandExactlyWhenRefused : Prop :=
  ∀ (i : Instr) (s : State),
    (¬ WellFormed i → exec i s = .next (failed s .badOperand 0))
    ∧ (WellFormed i → ∀ t, exec i s = .next t → t.status ≠ .badOperand)

/-- Rule R76: a command that raises a status, ILLEGAL_COMMAND too, changes only `STATUS`, `RVAL` and `CCNT`, and a failure is not
sticky: what `STATUS` and `RVAL` held before a command has no effect on it. -/
def Obligations.FailureIsAtomic : Prop :=
  (∀ (i : Instr) (s t : State), exec i s = .next t → t.status ≠ .ok →
      t = { s with status := t.status, rval := t.rval, ccnt := t.ccnt })
    ∧ (∀ (w : Command) (s t : State), step (s.presentNext w) = .next t → t.status ≠ .ok →
      t = { s with status := t.status, rval := t.rval, ccnt := t.ccnt })
    ∧ ∀ (i : Instr) (s : State) (status : Status) (rval : Word32),
      exec i { s with status := status, rval := rval } = exec i s

/-- Rule R35: every command word, executed or not, adds 1 to `CCNT`, but a successful SRST leaves 0; CRR of `CCNT` answers the value
before its own increment. -/
def Obligations.EveryCommandIsCounted : Prop :=
  (∀ (s t : State) (w : Command), step (s.presentNext w) = .next t →
      t.ccnt = if decode w = .ok .srst then 0 else s.ccnt + 1)
    ∧ ∀ s : State, exec (.crr 7) s = .next (answered s s.ccnt)

/-- The end of part 2 of 93_implementation_defined.md: every command word, in every state, has a successor state and a response. The
machine's size, the host's other inputs and the free-value counter stay. -/
def Obligations.EveryWordHasASuccessor : Prop :=
  ∀ (s : State) (w : Command),
    ∃ t, step (s.presentNext w) = .next t ∧ t.inputs = s.inputs ∧ t.dmemBytes = s.dmemBytes ∧ t.fresh = s.fresh

/-- Rules R73, R281, R282, R283: the codes of the statuses; each command returns only the statuses the table gives it (never
INTEGRITY_MISMATCH), `RVAL` is 0 for every failure that has no information word, and the response word is `{STATUS, RVAL}`. -/
def Obligations.StatusesOfEachCommand : Prop :=
  ([.ok, .invalidParameters, .insufficientShards, .dupOrRangeIndex, .singular, .integrityMismatch, .domainError, .illegalCommand,
      .badOperand, .dimError, .notConfigured, .badRange].map Status.code
    = [0x00, 0x01, 0x02, 0x03, 0x04, 0x05, 0x06, 0x10, 0x11, 0x12, 0x13, 0x14])
    ∧ ∀ (i : Instr) (s t : State), exec i s = .next t →
        t.status ∈ statusesOf i ∧ (t.status ∉ statusesWithInfo → t.rval = 0)
          ∧ t.response.extractLsb' 32 8 = t.status.code ∧ t.response.extractLsb' 0 32 = t.rval

/-! ## Reset and the host -/

/-- Rule R310: the reset state, after power-on for every size and every contents of DMEM (`State.reset` is one of these states), and
after the reset input, which keeps DMEM. That the host's other inputs stay is the model's choice (log entry 9). -/
def Obligations.ResetGivesResetState : Prop :=
  (∀ (bytes : Word32) (mem : Memory),
      ResetValues (State.powerOn bytes mem) ∧ (State.powerOn bytes mem).dmem = mem ∧ (State.powerOn bytes mem).dmemBytes = bytes)
    ∧ ResetValues State.reset
    ∧ ∀ (s : State) (rest : List HostInput), s.inputs = .reset :: rest →
        ∃ t, step s = .next t ∧ ResetValues t ∧ t.dmem = s.dmem ∧ t.dmemBytes = s.dmemBytes ∧ t.inputs = rest ∧ t.fresh = s.fresh

/-- Rule R231: SRST leaves the reset state and keeps DMEM; any nonzero field is illegal. That the host's other inputs and the
free-value counter stay is the model's choice (log entry 9). -/
def Obligations.SrstRule : Prop :=
  IllegalUnless 0x01 (fun a b c imm => a = 0 ∧ b = 0 ∧ c = 0 ∧ imm = 0)
    ∧ decode (word 0x01 0 0 0 0) = .ok .srst
    ∧ ∀ s : State, ∃ t, exec .srst s = .next t ∧ ResetValues t ∧ t.dmem = s.dmem ∧ t.dmemBytes = s.dmemBytes
        ∧ t.inputs = s.inputs ∧ t.fresh = s.fresh

/-- Rule R311: after a reset during a command the state is the reset state, and every byte of DMEM but the interrupted command's
destination reads as before. The destination's bytes are free values (log entry 6), so nothing is said of them. That the host's other
inputs stay is the model's choice (log entry 9). -/
def Obligations.ResetDuringCommand : Prop :=
  ∀ (s : State) (w : Command) (rest : List HostInput), s.inputs = .resetDuring w :: rest →
    ∃ t, step s = .next t ∧ ResetValues t ∧ t.dmemBytes = s.dmemBytes ∧ t.inputs = rest
      ∧ ∀ a, (∀ ga addr, decode w = .ok (.stb ga addr) → a ≠ addr.toNat) →
          (decode w = .ok .enc → OutsideDestination s s.n.toNat a) →
          (decode w = .ok .dec → OutsideDestination s s.k.toNat a) →
          memRead t.dmem a = memRead s.dmem a

/-- Rule R64: between commands the host replaces bytes of DMEM; the last cell listed for an address decides, every other byte and all
other state is unchanged. A cell outside DMEM stops the step, which is the model's choice (log entry 7). -/
def Obligations.HostWritesDmem : Prop :=
  ∀ (s : State) (cells : List Host.Cell) (rest : List HostInput), s.inputs = .dmemWrite cells :: rest →
    ((∀ c ∈ cells, c.1 < s.dmemBytes.toNat) →
        ∃ m, step s = .next { s with inputs := rest, dmem := m }
          ∧ ∀ a, memRead m a = ((cells.reverse.find? fun c => c.1 = a).map Prod.snd).getD (memRead s.dmem a))
    ∧ ((∃ c ∈ cells, s.dmemBytes.toNat ≤ c.1) → ∃ a, step s = .fault (.noSuchAddress a) ∧ s.dmemBytes.toNat ≤ a)

/-! ## System and control commands -/

/-- Rule R230. -/
def Obligations.NopRule : Prop :=
  IllegalUnless 0x00 (fun a b c imm => a = 0 ∧ b = 0 ∧ c = 0 ∧ imm = 0)
    ∧ decode (word 0x00 0 0 0 0) = .ok .nop
    ∧ ∀ s : State, exec .nop s = .next (answered s 0)

/-- Rule R232: SRC, DST and BLEN take any value, PCNT one up to 255; every other number, and a larger PCNT, is refused. -/
def Obligations.CrwRule : Prop :=
  IllegalUnless 0x03 (fun _ b c _ => b = 0 ∧ c = 0)
    ∧ (∀ (cr : Byte) (v : Word32), decode (word 0x03 cr 0 0 v) = .ok (.crw cr v))
    ∧ ∀ (s : State) (v : Word32),
        exec (.crw 3 v) s = .next { answered s 0 with src := v }
        ∧ exec (.crw 4 v) s = .next { answered s 0 with dst := v }
        ∧ exec (.crw 5 v) s = .next { answered s 0 with blen := v }
        ∧ (v.toNat ≤ 255 → exec (.crw 6 v) s = .next { answered s 0 with pcnt := BitVec.ofNat 8 v.toNat })
        ∧ (255 < v.toNat → exec (.crw 6 v) s = .next (failed s .badOperand 0))
        ∧ ∀ cr : Byte, cr.toNat < 3 ∨ 6 < cr.toNat → exec (.crw cr v) s = .next (failed s .badOperand 0)

/-- Rule R233, with the values of the map in rule R30: each control register reads as its 32-bit value, and there are nine. -/
def Obligations.CrrRule : Prop :=
  IllegalUnless 0x04 (fun _ b c imm => b = 0 ∧ c = 0 ∧ imm = 0)
    ∧ (∀ cr : Byte, decode (word 0x04 cr 0 0 0) = .ok (.crr cr))
    ∧ ∀ s : State,
        exec (.crr 0) s = .next (answered s 0x45433031)
        ∧ exec (.crr 1) s = .next (answered s 0x0000011B)
        ∧ exec (.crr 2) s =
            .next (answered s (BitVec.ofNat 32 (s.k.toNat + 256 * s.n.toNat + if s.cfgok then 65536 else 0)))
        ∧ exec (.crr 3) s = .next (answered s s.src)
        ∧ exec (.crr 4) s = .next (answered s s.dst)
        ∧ exec (.crr 5) s = .next (answered s s.blen)
        ∧ exec (.crr 6) s = .next (answered s (BitVec.ofNat 32 s.pcnt.toNat))
        ∧ exec (.crr 7) s = .next (answered s s.ccnt)
        ∧ exec (.crr 8) s = .next (answered s s.dmemBytes)
        ∧ ∀ cr : Byte, 8 < cr.toNat → exec (.crr cr) s = .next (failed s .badOperand 0)

/-- Rule R234: every slot and every index is accepted. -/
def Obligations.PidxwRule : Prop :=
  IllegalUnless 0x05 (fun _ _ c imm => c = 0 ∧ imm = 0)
    ∧ (∀ slot index : Byte, decode (word 0x05 slot index 0 0) = .ok (.pidxw slot index))
    ∧ ∀ (s : State) (slot : Fin 256) (index : Byte),
        exec (.pidxw (BitVec.ofNat 8 slot.val) index) s = .next { answered s 0 with pidx := s.pidx.set slot index }

/-- Rule R235. -/
def Obligations.PidxrRule : Prop :=
  IllegalUnless 0x06 (fun _ b c imm => b = 0 ∧ c = 0 ∧ imm = 0)
    ∧ (∀ slot : Byte, decode (word 0x06 slot 0 0 0) = .ok (.pidxr slot))
    ∧ ∀ (s : State) (slot : Fin 256),
        exec (.pidxr (BitVec.ofNat 8 slot.val)) s = .next (answered s (BitVec.ofNat 32 s.pidx[slot].toNat))

/-! ## GF256 ALU and byte memory -/

/-- Rule R110. -/
def Obligations.GfldiRule : Prop :=
  IllegalUnless 0x10 (fun _ _ c imm => c = 0 ∧ imm = 0)
    ∧ (∀ gd value : Byte, decode (word 0x10 gd value 0 0) = .ok (.gfldi gd value))
    ∧ (∀ (s : State) (gd value : Byte), 15 < gd.toNat → exec (.gfldi gd value) s = .next (failed s .badOperand 0))
    ∧ ∀ (s : State) (d : Fin 16) (value : Byte),
        exec (.gfldi (regField d) value) s =
          .next { answered s (BitVec.ofNat 32 value.toNat) with g := s.g.set d value }

/-- Rule R111: the exclusive or of two registers of the pre-state. -/
def Obligations.GfaddRule : Prop :=
  IllegalUnless 0x11 (fun _ _ _ imm => imm = 0)
    ∧ (∀ gd ga gb : Byte, decode (word 0x11 gd ga gb 0) = .ok (.gfadd gd ga gb))
    ∧ (∀ (s : State) (gd ga gb : Byte), 15 < gd.toNat ∨ 15 < ga.toNat ∨ 15 < gb.toNat →
        exec (.gfadd gd ga gb) s = .next (failed s .badOperand 0))
    ∧ ∀ (s : State) (d a b : Fin 16),
        exec (.gfadd (regField d) (regField a) (regField b)) s =
          .next { answered s (BitVec.ofNat 32 (s.g[a] ^^^ s.g[b]).toNat) with g := s.g.set d (s.g[a] ^^^ s.g[b]) }

/-- Rule R112: the field product of two registers of the pre-state. -/
def Obligations.GfmulRule : Prop :=
  IllegalUnless 0x12 (fun _ _ _ imm => imm = 0)
    ∧ (∀ gd ga gb : Byte, decode (word 0x12 gd ga gb 0) = .ok (.gfmul gd ga gb))
    ∧ (∀ (s : State) (gd ga gb : Byte), 15 < gd.toNat ∨ 15 < ga.toNat ∨ 15 < gb.toNat →
        exec (.gfmul gd ga gb) s = .next (failed s .badOperand 0))
    ∧ ∀ (s : State) (d a b : Fin 16),
        exec (.gfmul (regField d) (regField a) (regField b)) s =
          .next { answered s (BitVec.ofNat 32 (gfMul s.g[a] s.g[b]).toNat) with g := s.g.set d (gfMul s.g[a] s.g[b]) }

/-- Rules R103, R113: the value written is the byte whose product with the source is `0x01`; the inverse of `0x00` is DOMAIN_ERROR. -/
def Obligations.GfinvRule : Prop :=
  IllegalUnless 0x13 (fun _ _ c imm => c = 0 ∧ imm = 0)
    ∧ (∀ gd ga : Byte, decode (word 0x13 gd ga 0 0) = .ok (.gfinv gd ga))
    ∧ (∀ (s : State) (gd ga : Byte), 15 < gd.toNat ∨ 15 < ga.toNat → exec (.gfinv gd ga) s = .next (failed s .badOperand 0))
    ∧ (∀ (s : State) (d a : Fin 16), s.g[a] = 0x00 →
        exec (.gfinv (regField d) (regField a)) s = .next (failed s .domainError 0))
    ∧ ∀ (s : State) (d a : Fin 16), s.g[a] ≠ 0x00 →
        ∃ v, gfMul s.g[a] v = 0x01
          ∧ exec (.gfinv (regField d) (regField a)) s =
              .next { answered s (BitVec.ofNat 32 v.toNat) with g := s.g.set d v }

/-- Rule R114. -/
def Obligations.GfrdRule : Prop :=
  IllegalUnless 0x14 (fun _ b c imm => b = 0 ∧ c = 0 ∧ imm = 0)
    ∧ (∀ ga : Byte, decode (word 0x14 ga 0 0 0) = .ok (.gfrd ga))
    ∧ (∀ (s : State) (ga : Byte), 15 < ga.toNat → exec (.gfrd ga) s = .next (failed s .badOperand 0))
    ∧ ∀ (s : State) (a : Fin 16), exec (.gfrd (regField a)) s = .next (answered s (BitVec.ofNat 32 s.g[a].toNat))

/-- Rules R53, R115. -/
def Obligations.LdbRule : Prop :=
  IllegalUnless 0x18 (fun _ b c _ => b = 0 ∧ c = 0)
    ∧ (∀ (gd : Byte) (addr : Word32), decode (word 0x18 gd 0 0 addr) = .ok (.ldb gd addr))
    ∧ (∀ (s : State) (gd : Byte) (addr : Word32), 15 < gd.toNat → exec (.ldb gd addr) s = .next (failed s .badOperand 0))
    ∧ (∀ (s : State) (d : Fin 16) (addr : Word32), s.dmemBytes.toNat ≤ addr.toNat →
        exec (.ldb (regField d) addr) s = .next (failed s .badRange 0))
    ∧ ∀ (s : State) (d : Fin 16) (addr : Word32), addr.toNat < s.dmemBytes.toNat →
        exec (.ldb (regField d) addr) s =
          .next { answered s (BitVec.ofNat 32 (memRead s.dmem addr.toNat).toNat) with
            g := s.g.set d (memRead s.dmem addr.toNat) }

/-- Rules R53, R116: the byte at the immediate address reads as the register did, every other byte as before. -/
def Obligations.StbRule : Prop :=
  IllegalUnless 0x19 (fun _ b c _ => b = 0 ∧ c = 0)
    ∧ (∀ (ga : Byte) (addr : Word32), decode (word 0x19 ga 0 0 addr) = .ok (.stb ga addr))
    ∧ (∀ (s : State) (ga : Byte) (addr : Word32), 15 < ga.toNat → exec (.stb ga addr) s = .next (failed s .badOperand 0))
    ∧ (∀ (s : State) (a : Fin 16) (addr : Word32), s.dmemBytes.toNat ≤ addr.toNat →
        exec (.stb (regField a) addr) s = .next (failed s .badRange 0))
    ∧ ∀ (s : State) (a : Fin 16) (addr : Word32), addr.toNat < s.dmemBytes.toNat →
        ∃ m, exec (.stb (regField a) addr) s = .next { answered s 0 with dmem := m }
          ∧ memRead m addr.toNat = s.g[a] ∧ ∀ x, x ≠ addr.toNat → memRead m x = memRead s.dmem x

/-! ## Matrix engine -/

/-- Rule R135. -/
def Obligations.MdimRule : Prop :=
  IllegalUnless 0x20 (fun _ _ _ imm => imm = 0)
    ∧ (∀ md rows cols : Byte, decode (word 0x20 md rows cols 0) = .ok (.mdim md rows cols))
    ∧ (∀ (s : State) (md rows cols : Byte), md = 0 ∨ 3 < md.toNat → exec (.mdim md rows cols) s = .next (failed s .badOperand 0))
    ∧ ∀ (s : State) (d : Fin 4) (rows cols : Byte), d ≠ 0 →
        ∃ x, exec (.mdim (bankField d) rows cols) s = .next { answered s 0 with banks := s.banks.set d x }
          ∧ x.wf = true ∧ x.rows = rows.toNat ∧ x.cols = cols.toNat
          ∧ ∀ r c, r < x.rows → c < x.cols → x.cell r c = 0x00

/-- Rule R136, for a bank that holds a matrix value: the named cell takes the immediate, the other cells and the dimensions stay. -/
def Obligations.MwriRule : Prop :=
  IllegalUnless 0x21 (fun _ _ _ imm => imm.toNat < 256)
    ∧ (∀ md row col value : Byte, decode (word 0x21 md row col (value.setWidth 32)) = .ok (.mwri md row col value))
    ∧ (∀ (s : State) (md row col value : Byte), md = 0 ∨ 3 < md.toNat →
        exec (.mwri md row col value) s = .next (failed s .badOperand 0))
    ∧ (∀ (s : State) (d : Fin 4) (row col value : Byte), d ≠ 0 → s.banks[d].rows ≤ row.toNat ∨ s.banks[d].cols ≤ col.toNat →
        exec (.mwri (bankField d) row col value) s = .next (failed s .dimError 0))
    ∧ ∀ (s : State) (d : Fin 4) (row col value : Byte), d ≠ 0 → s.banks[d].wf = true →
        row.toNat < s.banks[d].rows → col.toNat < s.banks[d].cols →
        ∃ x, exec (.mwri (bankField d) row col value) s = .next { answered s 0 with banks := s.banks.set d x }
          ∧ x.wf = true ∧ x.rows = s.banks[d].rows ∧ x.cols = s.banks[d].cols
          ∧ ∀ r c, r < x.rows → c < x.cols →
              x.cell r c = if r = row.toNat ∧ c = col.toNat then value else s.banks[d].cell r c

/-- Rule R137: bank 0 is a legal source. -/
def Obligations.MgetRule : Prop :=
  IllegalUnless 0x22 (fun _ _ _ imm => imm.toNat < 16)
    ∧ (∀ (ma row col : Byte) (gd : BitVec 4), decode (word 0x22 ma row col (gd.setWidth 32)) = .ok (.mget ma row col gd))
    ∧ (∀ (s : State) (ma row col : Byte) (gd : BitVec 4), 3 < ma.toNat →
        exec (.mget ma row col gd) s = .next (failed s .badOperand 0))
    ∧ (∀ (s : State) (a : Fin 4) (row col : Byte) (gd : BitVec 4),
        s.banks[a].rows ≤ row.toNat ∨ s.banks[a].cols ≤ col.toNat →
        exec (.mget (bankField a) row col gd) s = .next (failed s .dimError 0))
    ∧ ∀ (s : State) (a : Fin 4) (row col : Byte) (d : Fin 16),
        row.toNat < s.banks[a].rows → col.toNat < s.banks[a].cols →
        exec (.mget (bankField a) row col (BitVec.ofNat 4 d.val)) s =
          .next { answered s (BitVec.ofNat 32 (s.banks[a].cell row.toNat col.toNat).toNat) with
            g := s.g.set d (s.banks[a].cell row.toNat col.toNat) }

/-- Rule R138, for a bank that holds a matrix value. -/
def Obligations.MputRule : Prop :=
  IllegalUnless 0x23 (fun _ _ _ imm => imm.toNat < 16)
    ∧ (∀ (md row col : Byte) (ga : BitVec 4), decode (word 0x23 md row col (ga.setWidth 32)) = .ok (.mput md row col ga))
    ∧ (∀ (s : State) (md row col : Byte) (ga : BitVec 4), md = 0 ∨ 3 < md.toNat →
        exec (.mput md row col ga) s = .next (failed s .badOperand 0))
    ∧ (∀ (s : State) (d : Fin 4) (row col : Byte) (ga : BitVec 4), d ≠ 0 →
        s.banks[d].rows ≤ row.toNat ∨ s.banks[d].cols ≤ col.toNat →
        exec (.mput (bankField d) row col ga) s = .next (failed s .dimError 0))
    ∧ ∀ (s : State) (d : Fin 4) (row col : Byte) (a : Fin 16), d ≠ 0 → s.banks[d].wf = true →
        row.toNat < s.banks[d].rows → col.toNat < s.banks[d].cols →
        ∃ x, exec (.mput (bankField d) row col (BitVec.ofNat 4 a.val)) s =
            .next { answered s 0 with banks := s.banks.set d x }
          ∧ x.wf = true ∧ x.rows = s.banks[d].rows ∧ x.cols = s.banks[d].cols
          ∧ ∀ r c, r < x.rows → c < x.cols →
              x.cell r c = if r = row.toNat ∧ c = col.toNat then s.g[a] else s.banks[d].cell r c

/-- Rules R130, R139: the product of two banks of the pre-state replaces the whole destination bank. -/
def Obligations.MmulRule : Prop :=
  IllegalUnless 0x24 (fun _ _ _ imm => imm = 0)
    ∧ (∀ md ma mb : Byte, decode (word 0x24 md ma mb 0) = .ok (.mmul md ma mb))
    ∧ (∀ (s : State) (md ma mb : Byte), md = 0 ∨ 3 < md.toNat ∨ 3 < ma.toNat ∨ 3 < mb.toNat →
        exec (.mmul md ma mb) s = .next (failed s .badOperand 0))
    ∧ (∀ (s : State) (d a b : Fin 4), d ≠ 0 → s.banks[a].cols ≠ s.banks[b].rows →
        exec (.mmul (bankField d) (bankField a) (bankField b)) s = .next (failed s .dimError 0))
    ∧ ∀ (s : State) (d a b : Fin 4), d ≠ 0 → s.banks[a].cols = s.banks[b].rows →
        ∃ x, exec (.mmul (bankField d) (bankField a) (bankField b)) s = .next { answered s 0 with banks := s.banks.set d x }
          ∧ x.rows = s.banks[a].rows ∧ x.cols = s.banks[b].cols
          ∧ (s.banks[a].wf = true → s.banks[b].wf = true → x.wf = true)
          ∧ ∀ r c, r < x.rows → c < x.cols →
              x.cell r c = xorSum s.banks[a].cols fun t => gfMul (s.banks[a].cell r t) (s.banks[b].cell t c)

/-- Rule R140: DIM_ERROR for a source that is not square, SINGULAR with the column `Invert` reports, or the whole destination bank
replaced by what `Invert` returns. What `Invert` returns is the inverse: `InvertGivesTheInverse`, `InvertReportsDependentColumn`. -/
def Obligations.MinvRule : Prop :=
  IllegalUnless 0x25 (fun _ _ c imm => c = 0 ∧ imm = 0)
    ∧ (∀ md ma : Byte, decode (word 0x25 md ma 0 0) = .ok (.minv md ma))
    ∧ (∀ (s : State) (md ma : Byte), md = 0 ∨ 3 < md.toNat ∨ 3 < ma.toNat →
        exec (.minv md ma) s = .next (failed s .badOperand 0))
    ∧ (∀ (s : State) (d a : Fin 4), d ≠ 0 → s.banks[a].rows ≠ s.banks[a].cols →
        exec (.minv (bankField d) (bankField a)) s = .next (failed s .dimError 0))
    ∧ (∀ (s : State) (d a : Fin 4) (column : Nat), d ≠ 0 → s.banks[a].rows = s.banks[a].cols →
        invert s.banks[a] = .singular column →
        exec (.minv (bankField d) (bankField a)) s = .next (failed s .singular (BitVec.ofNat 32 column)))
    ∧ ∀ (s : State) (d a : Fin 4) (x : MatrixVal), d ≠ 0 → s.banks[a].rows = s.banks[a].cols →
        invert s.banks[a] = .ok x →
        exec (.minv (bankField d) (bankField a)) s = .next { answered s 0 with banks := s.banks.set d x }

/-- Rule R133: when `Invert` answers `Ok`, the result is the two-sided inverse, and the only matrix of that size that is one. -/
def Obligations.InvertGivesTheInverse : Prop :=
  ∀ a x : MatrixVal, a.wf = true → a.rows = a.cols → invert a = .ok x →
    x.wf = true ∧ x.rows = a.rows ∧ x.cols = a.rows
      ∧ matMul a x = matIdentity a.rows ∧ matMul x a = matIdentity a.rows
      ∧ ∀ y : MatrixVal, y.wf = true → y.rows = a.rows → y.cols = a.rows → matMul a y = matIdentity a.rows → y = x

/-- Rule R133: when `Invert` answers `Singular(c)`, `c` is the smallest column that is a linear combination of the columns before it,
and the matrix has no inverse. -/
def Obligations.InvertReportsDependentColumn : Prop :=
  ∀ (a : MatrixVal) (c : Nat), a.wf = true → a.rows = a.cols → invert a = .singular c →
    c < a.cols ∧ ColumnDependent a c ∧ (∀ c', c' < c → ¬ ColumnDependent a c')
      ∧ ∀ y : MatrixVal, y.wf = true → y.rows = a.rows → y.cols = a.rows → matMul y a ≠ matIdentity a.rows

/-! ## The field -/

/-- Rule R101: the product of the two polynomials, reduced modulo `x^8 + x^4 + x^3 + x + 1`; the unit and the zero. -/
def Obligations.GfMulIsPolynomialProduct : Prop :=
  (∀ a b : Byte, fieldPolynomial ∣ polynomialOf a * polynomialOf b - polynomialOf (gfMul a b))
    ∧ ∀ a : Byte, gfMul a 0x01 = a ∧ gfMul 0x01 a = a ∧ gfMul a 0x00 = 0x00 ∧ gfMul 0x00 a = 0x00

/-- Rule R104: the 256 bytes form a field. -/
def Obligations.BytesFormAField : Prop :=
  (∀ a b : Byte, gfAdd a b = gfAdd b a ∧ gfMul a b = gfMul b a)
    ∧ (∀ a b c : Byte, gfAdd (gfAdd a b) c = gfAdd a (gfAdd b c) ∧ gfMul (gfMul a b) c = gfMul a (gfMul b c)
        ∧ gfMul a (gfAdd b c) = gfAdd (gfMul a b) (gfMul a c))
    ∧ (∀ a : Byte, gfAdd a 0x00 = a ∧ gfMul a 0x01 = a ∧ gfAdd a a = 0x00)
    ∧ ∀ a : Byte, a ≠ 0x00 → ∃ b, gfMul a b = 0x01

/-- Rule R103: for a nonzero byte, `gf_inv` is the unique byte whose product with it is `0x01`, and is its 254th power;
`gf_inv(0x00)` is not defined. -/
def Obligations.GfInvIsUniqueInverse : Prop :=
  gfInv 0x00 = none
    ∧ ∀ a : Byte, a ≠ 0x00 → ∃ b, gfInv a = some b ∧ gfMul a b = 0x01 ∧ (∀ c, gfMul a c = 0x01 → c = b) ∧ gfPow a 254 = b

/-! ## The generator matrix and CFG -/

/-- Rules R163, R165: parameters that fail the check, in its order, are refused with the information word of the first that fails;
parameters that pass set `K`, `N`, `CFGOK` and `M[0]`. -/
def Obligations.CfgRule : Prop :=
  IllegalUnless 0x02 (fun a b c _ => a = 0 ∧ b = 0 ∧ c = 0)
    ∧ (∀ k n : BitVec 16, decode (word 0x02 0 0 0 (n ++ k)) = .ok (.cfg k n))
    ∧ (∀ (s : State) (k n : BitVec 16), k.toNat = 0 → exec (.cfg k n) s = .next (failed s .invalidParameters 1))
    ∧ (∀ (s : State) (k n : BitVec 16), 0 < k.toNat → n.toNat < k.toNat →
        exec (.cfg k n) s = .next (failed s .invalidParameters 2))
    ∧ (∀ (s : State) (k n : BitVec 16), 0 < k.toNat → k.toNat ≤ n.toNat → 255 < n.toNat →
        exec (.cfg k n) s = .next (failed s .invalidParameters 3))
    ∧ ∀ (s : State) (k n : BitVec 16), 0 < k.toNat → k.toNat ≤ n.toNat → n.toNat ≤ 255 →
        exec (.cfg k n) s = .next { answered s 0 with
          k := BitVec.ofNat 8 k.toNat, n := BitVec.ofNat 8 n.toNat, cfgok := true, banks := s.banks.set 0 (gen k.toNat n.toNat) }

/-- Rule R161 (b), first part: `Invert(Vtop)` never answers `Singular`, so the arm that makes `topInverse` total is dead (log entry 5). -/
def Obligations.VandermondeTopIsInvertible : Prop :=
  ∀ k : Nat, 1 ≤ k → k ≤ 255 → invert (vandermonde k k) = .ok (topInverse k)

/-- Rules R160, R161 (a), (c), (d): `Gen(k, n)` is the one construction on the one set of points, `V` of cell `gf_pow(i + 1, j)` and
`Gen(k, n)` times `Vtop` is `V`; the first `k` rows are the identity, row `i` of `Gen(k, n)` does not depend on `n`,
`Gen(k, k) = I_k`, and `Gen(1, n)` is all `0x01`. -/
def Obligations.GeneratorIsSystematic : Prop :=
  (∀ k n : Nat, 1 ≤ k → k ≤ n → n ≤ 255 →
      matMul (gen k n) (vandermonde k k) = vandermonde n k
        ∧ (gen k n).wf = true ∧ (gen k n).rows = n ∧ (gen k n).cols = k
        ∧ ∀ i j, i < n → j < k → (vandermonde n k).cell i j = gfPow (BitVec.ofNat 8 (i + 1)) j)
    ∧ (∀ k n r c : Nat, 1 ≤ k → k ≤ n → n ≤ 255 → r < k → c < k → (gen k n).cell r c = if r = c then 0x01 else 0x00)
    ∧ (∀ k n r c : Nat, 1 ≤ k → k ≤ n → n ≤ 255 → r < n → c < k → (gen k n).cell r c = (gen k 255).cell r c)
    ∧ (∀ k : Nat, 1 ≤ k → k ≤ 255 → gen k k = matIdentity k)
    ∧ ∀ n r : Nat, 1 ≤ n → n ≤ 255 → r < n → (gen 1 n).cell r 0 = 0x01

/-- Rule R161 (b), second part: every `k × k` matrix made of `k` distinct rows of `Gen(k, n)` is invertible. -/
def Obligations.AnyRowsOfGeneratorInvertible : Prop :=
  ∀ (k n : Nat) (rows : Nat → Nat), 1 ≤ k → k ≤ n → n ≤ 255 → (∀ t < k, rows t < n) →
    (∀ t u, t < k → u < k → rows t = rows u → t = u) →
    ∃ x, invert (matBuild k k fun t c => (gen k n).cell (rows t) c) = .ok x

/-! ## Encoder and decoder -/

/-- Rules R54, R180, R181: the checks in their order, then byte `j` of shard `i` is the dot product of row `i` of `M[0]` with byte `j`
of the `K` source blocks; every byte outside the destination region and all other state stay. -/
def Obligations.EncRule : Prop :=
  IllegalUnless 0x30 (fun a b c imm => a = 0 ∧ b = 0 ∧ c = 0 ∧ imm = 0)
    ∧ decode (word 0x30 0 0 0 0) = .ok .enc
    ∧ (∀ s : State, s.cfgok = false → exec .enc s = .next (failed s .notConfigured 0))
    ∧ (∀ s : State, s.cfgok = true → ¬ RegionsOk s s.k.toNat s.n.toNat → exec .enc s = .next (failed s .badRange 0))
    ∧ ∀ s : State, s.cfgok = true → s.configWf → RegionsOk s s.k.toNat s.n.toNat →
        ∃ m, exec .enc s = .next { answered s 0 with dmem := m }
          ∧ (∀ i j, i < s.n.toNat → j < s.blen.toNat →
              memRead m (destAddress s i j) = xorSum s.k.toNat fun t => gfMul (s.banks[0].cell i t) (sourceByte s t j))
          ∧ ∀ a, OutsideDestination s s.n.toNat a → memRead m a = memRead s.dmem a

/-- Rule R182: after a successful ENC the first `K` shards equal the source blocks. -/
def Obligations.EncIsSystematic : Prop :=
  ∀ s t : State, s.configWf → exec .enc s = .next t → t.status = .ok →
    ∀ i j, i < s.k.toNat → j < s.blen.toNat → memRead t.dmem (destAddress s i j) = sourceByte s i j

/-- Rule R183: the destination region is a function of `K`, `N`, `BLEN` and the source region's bytes only. -/
def Obligations.EncIsDeterministic : Prop :=
  ∀ s t s' t' : State, s.configWf → s'.configWf → exec .enc s = .next t → exec .enc s' = .next t' →
    t.status = .ok → t'.status = .ok → s.k = s'.k → s.n = s'.n → s.blen = s'.blen →
    (∀ b j, b < s.k.toNat → j < s.blen.toNat → sourceByte s b j = sourceByte s' b j) →
    ∀ i j, i < s.n.toNat → j < s.blen.toNat → memRead t.dmem (destAddress s i j) = memRead t'.dmem (destAddress s' i j)

/-- Rules R201, R202, R205: what DEC refuses, in its order, with the information word of rule R282. -/
def Obligations.DecRefusals : Prop :=
  IllegalUnless 0x31 (fun a b c imm => a = 0 ∧ b = 0 ∧ c = 0 ∧ imm = 0)
    ∧ decode (word 0x31 0 0 0 0) = .ok .dec
    ∧ (∀ s : State, s.cfgok = false → exec .dec s = .next (failed s .notConfigured 0))
    ∧ (∀ (s : State) (t : Nat), s.cfgok = true → t < s.pcnt.toNat → BadSlot s t → (∀ u < t, ¬ BadSlot s u) →
        exec .dec s = .next (failed s .dupOrRangeIndex (BitVec.ofNat 32 t)))
    ∧ (∀ s : State, s.cfgok = true → (∀ t < s.pcnt.toNat, ¬ BadSlot s t) → s.pcnt.toNat < s.k.toNat →
        exec .dec s = .next (failed s .insufficientShards (BitVec.ofNat 32 s.pcnt.toNat)))
    ∧ (∀ s : State, s.cfgok = true → IndicesOk s → ¬ RegionsOk s s.pcnt.toNat s.k.toNat →
        exec .dec s = .next (failed s .badRange 0))
    ∧ ∀ (s : State) (sel slot : Nat → Nat) (column : Nat), s.cfgok = true → IndicesOk s →
        RegionsOk s s.pcnt.toNat s.k.toNat → Selected s sel slot →
        invert (matBuild s.k.toNat s.k.toNat fun t c => s.banks[0].cell (sel t) c) = .singular column →
        exec .dec s = .next (failed s .singular (BitVec.ofNat 32 column))

/-- Rules R201, R203, R205, R206: what DEC does when it succeeds. `M[1]` is the submatrix of the selected rows, `M[2]` its inverse,
destination block `c` the recovery product; every byte outside the destination region and all other state stay. -/
def Obligations.DecRecoveryRule : Prop :=
  ∀ (s : State) (sel slot : Nat → Nat) (x : MatrixVal), s.cfgok = true → IndicesOk s →
    RegionsOk s s.pcnt.toNat s.k.toNat → Selected s sel slot →
    invert (matBuild s.k.toNat s.k.toNat fun t c => s.banks[0].cell (sel t) c) = .ok x →
    ∃ m, exec .dec s = .next { answered s 0 with
          dmem := m
          banks := (s.banks.set 1 (matBuild s.k.toNat s.k.toNat fun t c => s.banks[0].cell (sel t) c)).set 2 x }
      ∧ (∀ c j, c < s.k.toNat → j < s.blen.toNat →
          memRead m (destAddress s c j) = xorSum s.k.toNat fun t => gfMul (x.cell c t) (sourceByte s (slot t) j))
      ∧ ∀ a, OutsideDestination s s.k.toNat a → memRead m a = memRead s.dmem a

/-- Rule R207: in a state that meets the invariant, DEC succeeds once its index and region checks pass; SINGULAR is unreachable. -/
def Obligations.DecIsNeverSingular : Prop :=
  ∀ s : State, s.Inv → s.cfgok = true → IndicesOk s → RegionsOk s s.pcnt.toNat s.k.toNat →
    ∃ t, exec .dec s = .next t ∧ t.status = .ok ∧ matMul t.banks[1] t.banks[2] = matIdentity s.k.toNat
      ∧ t.banks[3] = s.banks[3]

/-- Rule R208: when the selected indices are `0 .. K-1`, the recovered blocks are the selected blocks, and both bank outputs are the
identity. -/
def Obligations.DecOfSystematicShards : Prop :=
  ∀ (s : State) (slot : Nat → Nat), s.Inv → s.cfgok = true → IndicesOk s → RegionsOk s s.pcnt.toNat s.k.toNat →
    Selected s id slot →
    ∃ t, exec .dec s = .next t ∧ t.status = .ok ∧ t.banks[1] = matIdentity s.k.toNat ∧ t.banks[2] = matIdentity s.k.toNat
      ∧ ∀ c j, c < s.k.toNat → j < s.blen.toNat → memRead t.dmem (destAddress s c j) = sourceByte s (slot c) j

/-- Rule R209: DEC succeeds whatever bytes are presented, and when every presented slot holds the shard its index names, that is
what ENC writes for that index from the blocks `d` (statement `EncRule`), it writes those data blocks back, whichever `K` or more
distinct indices are presented. -/
def Obligations.DecRecoversTheData : Prop :=
  ∀ s : State, s.Inv → s.cfgok = true → IndicesOk s → RegionsOk s s.pcnt.toNat s.k.toNat →
    ∃ t, exec .dec s = .next t ∧ t.status = .ok
      ∧ ∀ d : Nat → Nat → Byte,
          (∀ p j, p < s.pcnt.toNat → j < s.blen.toNat →
            sourceByte s p j = xorSum s.k.toNat fun t => gfMul ((gen s.k.toNat s.n.toNat).cell (index s p) t) (d t j)) →
          ∀ c j, c < s.k.toNat → j < s.blen.toNat → memRead t.dmem (destAddress s c j) = d c j

/-! ## Frames of the whole command set -/

/-- Rules R39, R51: only LDB, STB, ENC and DEC reach DMEM. Every other command leaves every byte, and does the same whatever DMEM
holds. -/
def Obligations.OnlyFourCommandsReachDmem : Prop :=
  ∀ (i : Instr) (s : State), (∀ gd addr, i ≠ .ldb gd addr) → (∀ ga addr, i ≠ .stb ga addr) → i ≠ .enc → i ≠ .dec →
    ∃ t, exec i s = .next t ∧ t.dmem = s.dmem ∧ (∀ a, memRead t.dmem a = memRead s.dmem a)
      ∧ ∀ m, exec i { s with dmem := m } = .next { t with dmem := m }

/-- Rules R53, R56, R116, R181, R205: the stored bytes. STB changes no byte but the one at its immediate address, ENC and DEC none
outside their destination region, LDB none. -/
def Obligations.StoresStayInTheirBytes : Prop :=
  ∀ s t : State,
    (∀ ga addr, exec (.stb ga addr) s = .next t → ∀ a, a ≠ addr.toNat → memRead t.dmem a = memRead s.dmem a)
    ∧ (exec .enc s = .next t → ∀ a, OutsideDestination s s.n.toNat a → memRead t.dmem a = memRead s.dmem a)
    ∧ (exec .dec s = .next t → ∀ a, OutsideDestination s s.k.toNat a → memRead t.dmem a = memRead s.dmem a)
    ∧ ∀ gd addr, exec (.ldb gd addr) s = .next t → ∀ a, memRead t.dmem a = memRead s.dmem a

/-- Rule R21: a scalar register changes only as the named destination of GFLDI, GFADD, GFMUL, GFINV, LDB or MGET, or by SRST. -/
def Obligations.ScalarRegisterFrame : Prop :=
  ∀ (i : Instr) (s t : State), exec i s = .next t → i ≠ .srst →
    ∀ r : Fin 16, scalarDestination i ≠ some r.val → t.g[r] = s.g[r]

/-- Rules R25, R206, R293: a bank changes only as a destination, DEC writes `M[1]` and `M[2]` alone, and `M[0]`, `K`, `N` and `CFGOK`
are written by CFG and SRST alone. -/
def Obligations.BankAndConfigFrame : Prop :=
  ∀ (i : Instr) (s t : State), exec i s = .next t → i ≠ .srst →
    (∀ b : Fin 4, b.val ∉ bankDestinations i → t.banks[b] = s.banks[b])
    ∧ ((∀ k n, i ≠ .cfg k n) → t.banks[0] = s.banks[0] ∧ t.k = s.k ∧ t.n = s.n ∧ t.cfgok = s.cfgok)

/-- Rules R19, R27, R29: SRC, DST, BLEN and PCNT change only by a CRW of that number or SRST, and a PIDX slot only by a PIDXW of that
slot or SRST. -/
def Obligations.ControlRegisterFrame : Prop :=
  ∀ (i : Instr) (s t : State), exec i s = .next t → i ≠ .srst →
    ((∀ v, i ≠ .crw 3 v) → t.src = s.src) ∧ ((∀ v, i ≠ .crw 4 v) → t.dst = s.dst)
    ∧ ((∀ v, i ≠ .crw 5 v) → t.blen = s.blen) ∧ ((∀ v, i ≠ .crw 6 v) → t.pcnt = s.pcnt)
    ∧ ∀ slot : Fin 256, (∀ index, i ≠ .pidxw (BitVec.ofNat 8 slot.val) index) → t.pidx[slot] = s.pidx[slot]

/-! ## The invariant -/

/-- Rule R42: every step, whatever the host does, keeps the invariant: banks hold matrix values, `CFGOK = 1` means `M[0]` is
`Gen(K, N)`, `CFGOK = 0` means all of them are cleared; and DMEM keeps the model's canonical form. -/
def Obligations.StepKeepsInvariant : Prop := ∀ s t : State, s.Inv → step s = .next t → t.Inv

/-- The state after reset meets the invariant, and so does every power-on state whose DMEM is in canonical form. -/
def Obligations.ResetMeetsInvariant : Prop :=
  State.reset.Inv
    ∧ ∀ (bytes : Word32) (mem : Memory), mem.wf = true → (∀ e ∈ mem, e.1 < bytes.toNat) → (State.powerOn bytes mem).Inv

/-! ## The host -/

/-- Rule R253: `block_size` is the least size with `block_size * k ≥ L`; `block_size * k = L + padding`; `0 ≤ padding < k`; an empty
input has no padding; the padded buffer is the data followed by `padding` bytes `0x00`. -/
def Obligations.HostSizes : Prop :=
  ∀ (data : List Byte) (k : Nat), 1 ≤ k →
    (∀ b, data.length ≤ b * k ↔ hostBlockSize data.length k ≤ b)
    ∧ hostBlockSize data.length k * k = data.length + hostPadding data.length k
    ∧ hostPadding data.length k < k
    ∧ (data.length = 0 → hostPadding data.length k = 0)
    ∧ (hostPadded data k).length = hostBlockSize data.length k * k
    ∧ (hostPadded data k).take data.length = data
    ∧ ∀ j, data.length ≤ j → j < hostBlockSize data.length k * k → (hostPadded data k)[j]? = some 0x00

/-- Rules R255, R256, R259 (round trip, any k): when Encode succeeds and the host later presents, to the core as Encode left it, `k` or
more of its shards under their distinct indices, in any order and at any addresses that fit, Decode gives the data back. The order of
the host's own checks is the model's choice (log entry 11). -/
def Obligations.HostDecodeInvertsEncode : Prop :=
  ∀ (s : State) (data : List Byte) (k n src dst : Nat) (e : HostEncoded), s.Inv → hostEncode s data k n src dst = .ok e →
    ∀ (presented : List (Nat × List Byte)) (src' dst' : Nat),
      (∀ p ∈ presented, e.shards[p.1]? = some p.2) → (presented.map Prod.fst).Nodup → k ≤ presented.length →
      hostRegionsFit e.core src' (presented.length * e.metadata.blockSize) dst' (k * e.metadata.blockSize) = true →
      hostDecode e.core presented e.metadata src' dst' = .ok data

end
end

