-- ==== Sys2Proof/Laws/Matrix.lean ====
section
/-! SUPPORT. Shapes and cells of matrix values: what `matBuild`, `setCell`, `Invert` and the block functions give, whatever the field
arithmetic. -/

namespace Sys2Proof.Machine

/-! ### Sums -/

theorem xorSum_congr {q : Nat} {f f' : Nat → Byte} (h : ∀ t < q, f t = f' t) : xorSum q f = xorSum q f' := by
  unfold xorSum
  suffices ∀ (l : List Nat) (acc : Byte), (∀ t ∈ l, f t = f' t) →
      l.foldl (fun acc t => gfAdd acc (f t)) acc = l.foldl (fun acc t => gfAdd acc (f' t)) acc from
    this _ _ fun t ht => h t (List.mem_range.mp ht)
  intro l
  induction l with
  | nil => intro acc _; rfl
  | cons t l ih =>
    intro acc ht
    rw [List.foldl_cons, List.foldl_cons, ht t (by simp)]
    exact ih _ fun u hu => ht u (by simp [hu])

@[simp] theorem xorSum_zero (f : Nat → Byte) : xorSum 0 f = 0x00 := rfl

theorem xorSum_succ (q : Nat) (f : Nat → Byte) : xorSum (q + 1) f = gfAdd (xorSum q f) (f q) := by
  simp [xorSum, List.range_succ]

/-! ### Built matrices -/

@[simp] theorem matBuild_rows (p q : Nat) (f : Nat → Nat → Byte) : (matBuild p q f).rows = p := rfl

@[simp] theorem matBuild_cols (p q : Nat) (f : Nat → Nat → Byte) : (matBuild p q f).cols = q := rfl

theorem matBuild_cell {p q r c : Nat} (f : Nat → Nat → Byte) (hr : r < p) (hc : c < q) : (matBuild p q f).cell r c = f r c := by
  simp [matBuild, MatrixVal.cell, List.getD_eq_getElem?_getD, hr, hc]

theorem MatrixVal.wf_iff (x : MatrixVal) :
    x.wf = true ↔ x.rows ≤ 255 ∧ x.cols ≤ 255 ∧ x.cells.length = x.rows ∧ ∀ row ∈ x.cells, row.length = x.cols := by
  simp [MatrixVal.wf, and_assoc]

theorem wf_matBuild {p q : Nat} (f : Nat → Nat → Byte) (hp : p ≤ 255) (hq : q ≤ 255) : (matBuild p q f).wf = true := by
  rw [MatrixVal.wf_iff]
  simp [matBuild, hp, hq]

theorem matBuild_congr {p q : Nat} {f f' : Nat → Nat → Byte} (h : ∀ r < p, ∀ c < q, f r c = f' r c) :
    matBuild p q f = matBuild p q f' := by
  simp only [matBuild, MatrixVal.mk.injEq, true_and]
  exact List.map_congr_left fun r hr => List.map_congr_left fun c hc => h r (List.mem_range.mp hr) c (List.mem_range.mp hc)

/-- A matrix value is the matrix built from its cells: two matrix values are equal when their dimensions and all their cells are
equal (rule R24). -/
theorem MatrixVal.eq_matBuild {x : MatrixVal} (h : x.wf = true) : x = matBuild x.rows x.cols x.cell := by
  obtain ⟨-, -, hl, hw⟩ := (wf_iff x).mp h
  obtain ⟨p, q, cells⟩ := x
  simp only at hl hw
  simp only [matBuild, MatrixVal.mk.injEq, true_and]
  refine List.ext_getElem (by simp [hl]) fun r h1 h2 => ?_
  refine List.ext_getElem (by simp [hw _ (List.getElem_mem h1)]) fun c h3 h4 => ?_
  simp [MatrixVal.cell, List.getD_eq_getElem?_getD, h1, h3]

theorem MatrixVal.ext_cells {x y : MatrixVal} (hx : x.wf = true) (hy : y.wf = true) (hr : x.rows = y.rows) (hc : x.cols = y.cols)
    (h : ∀ r < x.rows, ∀ c < x.cols, x.cell r c = y.cell r c) : x = y := by
  rw [eq_matBuild hx, eq_matBuild hy, ← hr, ← hc]
  exact matBuild_congr h

/-! ### One cell written -/

@[simp] theorem MatrixVal.setCell_rows (x : MatrixVal) (r c : Nat) (v : Byte) : (x.setCell r c v).rows = x.rows := rfl

@[simp] theorem MatrixVal.setCell_cols (x : MatrixVal) (r c : Nat) (v : Byte) : (x.setCell r c v).cols = x.cols := rfl

theorem MatrixVal.wf_setCell {x : MatrixVal} (r c : Nat) (v : Byte) (h : x.wf = true) : (x.setCell r c v).wf = true := by
  rw [wf_iff] at *
  obtain ⟨hr, hc, hl, hw⟩ := h
  refine ⟨hr, hc, by simpa [setCell] using hl, fun row hrow => ?_⟩
  by_cases hlt : r < x.cells.length
  · rcases List.mem_or_eq_of_mem_set hrow with h | h
    · exact hw row h
    · subst h
      rw [List.length_set, List.getD_eq_getElem?_getD, List.getElem?_eq_getElem hlt, Option.getD_some]
      exact hw _ (List.getElem_mem hlt)
  · rw [setCell, List.set_eq_of_length_le (by omega)] at hrow
    exact hw row hrow

theorem MatrixVal.cell_setCell {x : MatrixVal} (h : x.wf = true) {row col r c : Nat} (v : Byte) (hr : r < x.rows) (hc : c < x.cols) :
    (x.setCell row col v).cell r c = if r = row ∧ c = col then v else x.cell r c := by
  obtain ⟨-, -, hl, hw⟩ := (wf_iff x).mp h
  have hlt : r < x.cells.length := by omega
  have hlen : (x.cells[r]).length = x.cols := hw _ (List.getElem_mem hlt)
  simp only [cell, setCell, List.getD_eq_getElem?_getD, List.getElem?_set]
  by_cases hrow : row = r
  · subst hrow
    by_cases hcol : col = c
    · subst hcol
      simp [hlt, hlen, hc]
    · simp [hlt, hcol, Ne.symm hcol]
  · simp [hrow, Ne.symm hrow]

/-! ### The shape of what Invert returns -/

/-- Row pairs of an `s × s` inversion: `s` of them, each row `s` bytes. -/
def PairsShape (s : Nat) (rows : List RowPair) : Prop :=
  rows.length = s ∧ ∀ row ∈ rows, row.w.length = s ∧ row.x.length = s

theorem PairsShape.getD {s : Nat} {rows : List RowPair} (h : PairsShape s rows) {r : Nat} (hr : r < s) :
    (rows.getD r ⟨[], []⟩).w.length = s ∧ (rows.getD r ⟨[], []⟩).x.length = s := by
  have hlt : r < rows.length := by have := h.1; omega
  rw [List.getD_eq_getElem?_getD, List.getElem?_eq_getElem hlt, Option.getD_some]
  exact h.2 _ (List.getElem_mem hlt)

theorem PairsShape.swapRows {s : Nat} {rows : List RowPair} (h : PairsShape s rows) {c piv : Nat} (hc : c < s) (hp : piv < s) :
    PairsShape s (swapRows rows c piv) := by
  refine ⟨by simp [Machine.swapRows, h.1], fun row hrow => ?_⟩
  rcases List.mem_or_eq_of_mem_set hrow with hrow | rfl
  · rcases List.mem_or_eq_of_mem_set hrow with hrow | rfl
    · exact h.2 row hrow
    · exact h.getD hp
  · exact h.getD hc

theorem eliminateRow_shape {s : Nat} {pivot row : RowPair} (c : Nat) (hp : pivot.w.length = s ∧ pivot.x.length = s)
    (hr : row.w.length = s ∧ row.x.length = s) :
    (eliminateRow pivot c row).w.length = s ∧ (eliminateRow pivot c row).x.length = s := by
  unfold eliminateRow
  split
  · exact hr
  · simp [addScaledRow, hp, hr]

theorem PairsShape.reduceColumn {s : Nat} {rows rows' : List RowPair} (h : PairsShape s rows) {c : Nat} (hc : c < s)
    (e : reduceColumn rows c = some rows') : PairsShape s rows' := by
  unfold Machine.reduceColumn at e
  split at e
  · simp at e
  · next f hf =>
    simp only [Option.some.injEq] at e
    subst e
    have hp : (scaleRow f (rows.getD c ⟨[], []⟩)).w.length = s ∧ (scaleRow f (rows.getD c ⟨[], []⟩)).x.length = s := by
      simpa [scaleRow] using h.getD hc
    refine ⟨by simp [h.1], fun row hrow => ?_⟩
    obtain ⟨r, hr, rfl⟩ := List.mem_mapIdx.mp hrow
    split
    · exact hp
    · exact eliminateRow_shape c hp (h.2 _ (List.getElem_mem hr))

theorem pivotRow_lt {rows : List RowPair} {s c piv : Nat} (h : pivotRow rows s c = some piv) : piv < s :=
  List.mem_range.mp (List.mem_of_find?_eq_some h)

theorem pivotRow_spec {rows : List RowPair} {s c piv : Nat} (h : pivotRow rows s c = some piv) :
    c ≤ piv ∧ piv < s ∧ pairCell rows piv c ≠ 0x00 := by
  have hp := List.find?_some h
  simp only [Bool.and_eq_true, decide_eq_true_eq, bne_iff_ne] at hp
  exact ⟨hp.1, pivotRow_lt h, hp.2⟩

theorem PairsShape.invertColumn {s : Nat} {rows rows' : List RowPair} (h : PairsShape s rows) {c : Nat} (hc : c < s)
    (e : invertColumn s rows c = some rows') : PairsShape s rows' := by
  unfold Machine.invertColumn at e
  split at e
  · simp at e
  · next piv hp => exact (h.swapRows hc (pivotRow_lt hp)).reduceColumn hc e

theorem invertColumns_ok_shape {s : Nat} {rows : List RowPair} {cs : List Nat} {x : MatrixVal} (hs : s ≤ 255)
    (h : PairsShape s rows) (hcs : ∀ c ∈ cs, c < s) (e : invertColumns s rows cs = .ok x) :
    x.wf = true ∧ x.rows = s ∧ x.cols = s := by
  induction cs generalizing rows with
  | nil =>
    simp only [invertColumns, InvertResult.ok.injEq] at e
    subst e
    refine ⟨(MatrixVal.wf_iff _).mpr ⟨hs, hs, by simp [h.1], fun row hrow => ?_⟩, rfl, rfl⟩
    obtain ⟨p, hp, rfl⟩ := List.mem_map.mp hrow
    exact (h.2 p hp).2
  | cons c cs ih =>
    rw [invertColumns] at e
    split at e
    · simp at e
    · next rows' hr => exact ih (h.invertColumn (hcs c (by simp)) hr) (fun c' hc' => hcs c' (by simp [hc'])) e

theorem beside_shape {a : MatrixVal} (h : a.wf = true) (sq : a.rows = a.cols) : PairsShape a.rows (beside a) := by
  obtain ⟨-, -, hl, hw⟩ := (MatrixVal.wf_iff a).mp h
  refine ⟨by simp [beside, hl, matIdentity, matBuild], fun row hrow => ?_⟩
  obtain ⟨i, hi, rfl⟩ := List.mem_iff_getElem.mp hrow
  simp only [beside, List.length_zipWith] at hi
  simp [beside, matIdentity, matBuild, hw _ (List.getElem_mem (by omega : i < a.cells.length)), sq]

/-- What `Invert` returns for a square matrix value is a matrix value of its size. -/
theorem invert_ok_shape {a x : MatrixVal} (h : a.wf = true) (sq : a.rows = a.cols) (e : invert a = .ok x) :
    x.wf = true ∧ x.rows = a.rows ∧ x.cols = a.rows :=
  invertColumns_ok_shape ((MatrixVal.wf_iff a).mp h).1 (beside_shape h sq) (fun _ hc => List.mem_range.mp hc) e

/-- `Gen(k, n)` is an `n × k` matrix value. -/
theorem wf_gen {k n : Nat} (hk : k ≤ 255) (hn : n ≤ 255) : (gen k n).wf = true := by
  refine wf_matBuild _ hn ?_
  unfold topInverse
  split
  · next x hx => rw [(invert_ok_shape (wf_matBuild _ hk hk) rfl hx).2.2]; exact hk
  · exact hk

theorem topInverse_dims {k : Nat} (hk : k ≤ 255) : (topInverse k).rows = k ∧ (topInverse k).cols = k := by
  unfold topInverse
  split
  · next x hx => exact (invert_ok_shape (wf_matBuild _ hk hk) rfl hx).2
  · exact ⟨rfl, rfl⟩

@[simp] theorem gen_rows (k n : Nat) : (gen k n).rows = n := rfl

theorem gen_cols {k : Nat} (hk : k ≤ 255) (n : Nat) : (gen k n).cols = k := (topInverse_dims hk).2

/-! ### Blocks -/

theorem blockMul_byte (x : MatrixVal) (blocks : List (List Byte)) {len i j : Nat} (hi : i < x.rows) (hj : j < len) :
    blockByte (blockMul x blocks len) i j = xorSum x.cols fun t => gfMul (x.cell i t) (blockByte blocks t j) := by
  simp [blockMul, blockByte, List.getD_eq_getElem?_getD, hi, hj]

@[simp] theorem regionBytes_length (blocks : List (List Byte)) (count len : Nat) :
    (regionBytes blocks count len).length = count * len := by
  simp [regionBytes, List.length_flatMap]

theorem regionBytes_getD (blocks : List (List Byte)) {count len i j : Nat} (hi : i < count) (hj : j < len) :
    (regionBytes blocks count len).getD (i * len + j) 0x00 = blockByte blocks i j := by
  induction count with
  | zero => omega
  | succ count ih =>
    have hcons : regionBytes blocks (count + 1) len
        = regionBytes blocks count len ++ (List.range len).map fun j => blockByte blocks count j := by
      simp [regionBytes, List.range_succ, List.flatMap_append]
    have hlen := regionBytes_length blocks count len
    rw [hcons]
    rcases Nat.lt_succ_iff_lt_or_eq.mp hi with h | rfl
    · have hlt : i * len + j < (regionBytes blocks count len).length := by
        rw [hlen]; calc i * len + j < i * len + len := by omega
          _ = (i + 1) * len := by ring
          _ ≤ count * len := Nat.mul_le_mul_right len h
      rw [List.getD_append _ _ _ _ hlt]
      exact ih h
    · rw [List.getD_append_right _ _ _ _ (by rw [hlen]; omega), hlen, Nat.add_sub_cancel_left]
      simp [List.getD_eq_getElem?_getD, hj]

end Sys2Proof.Machine
end

