-- ==== Sys2Proof/Laws/Memory.lean ====
section
/-! SUPPORT. The laws of DMEM: a read after a write, writes to other places, and the canonical form that every operation keeps.

The read laws hold for every list of cells, canonical or not. -/

namespace Sys2Proof.Machine

/-! ### Reads -/

theorem memRead_memErase (m : Memory) (addr x : Nat) :
    memRead (memErase m addr) x = if x = addr then unlistedByte else memRead m x := by
  induction m with
  | nil => simp [memErase, memRead]
  | cons e m ih =>
    have step : memErase (e :: m) addr = if e.1 = addr then memErase m addr else e :: memErase m addr := by
      by_cases h : e.1 = addr <;> simp [memErase, h]
    rw [step]
    by_cases h : e.1 = addr
    · rw [if_pos h, ih]
      by_cases hx : x = addr
      · simp [hx]
      · simp [hx, memRead, h, Ne.symm hx]
    · rw [if_neg h]
      by_cases hx : x = addr
      · subst hx; simpa [memRead, h] using ih
      · simp only [memRead, ih, if_neg hx]

theorem memRead_memInsert (m : Memory) (addr : Nat) (v : Byte) (x : Nat) (fresh : ∀ e ∈ m, e.1 ≠ addr) :
    memRead (memInsert m addr v) x = if x = addr then v else memRead m x := by
  induction m with
  | nil => simp only [memInsert, memRead, eq_comm]
  | cons e m ih =>
    have he : e.1 ≠ addr := fresh e (by simp)
    unfold memInsert
    split
    · by_cases hx : x = addr
      · simp [hx, memRead]
      · simp [hx, memRead, Ne.symm hx]
    · rw [memRead, ih fun e' h => fresh e' (by simp [h])]
      by_cases hx : x = addr
      · simp [hx, he]
      · simp [hx, memRead]

theorem memErase_fresh (m : Memory) (addr : Nat) : ∀ e ∈ memErase m addr, e.1 ≠ addr := by
  intro e h
  simpa using (List.mem_filter.mp h).2

/-- A read after one write (rule R59). -/
theorem memRead_memWrite (m : Memory) (addr : Nat) (v : Byte) (x : Nat) :
    memRead (memWrite m addr v) x = if x = addr then v else memRead m x := by
  unfold memWrite
  split
  · next h => rw [memRead_memErase, h]
  · rw [memRead_memInsert _ _ _ _ (memErase_fresh m addr), memRead_memErase]
    by_cases hx : x = addr <;> simp [hx]

@[simp] theorem memRead_memWrite_same (m : Memory) (addr : Nat) (v : Byte) : memRead (memWrite m addr v) addr = v := by
  simp [memRead_memWrite]

theorem memRead_memWrite_other (m : Memory) {addr x : Nat} (v : Byte) (h : x ≠ addr) :
    memRead (memWrite m addr v) x = memRead m x := by
  simp [memRead_memWrite, h]

/-- A read after a write of consecutive bytes (rule R55). -/
theorem memRead_memWriteBytes (m : Memory) (base : Nat) (bytes : List Byte) (x : Nat) :
    memRead (memWriteBytes m base bytes) x
      = if base ≤ x ∧ x < base + bytes.length then bytes.getD (x - base) 0x00 else memRead m x := by
  induction bytes generalizing m base with
  | nil => simp [memWriteBytes]
  | cons v vs ih =>
    rw [memWriteBytes, ih, memRead_memWrite]
    by_cases h0 : x = base
    · subst h0; simp
    · by_cases h1 : base + 1 ≤ x ∧ x < base + 1 + vs.length
      · have hsub : x - base = (x - (base + 1)) + 1 := by omega
        rw [if_pos h1, if_pos (by simp; omega), hsub, List.getD_cons_succ]
      · rw [if_neg h1, if_neg h0, if_neg (by simp; omega)]

theorem memRead_memWriteBytes_outside (m : Memory) {base x : Nat} (bytes : List Byte)
    (h : x < base ∨ base + bytes.length ≤ x) : memRead (memWriteBytes m base bytes) x = memRead m x := by
  rw [memRead_memWriteBytes, if_neg (by omega)]

theorem memRead_memWriteBytes_inside (m : Memory) (base : Nat) (bytes : List Byte) {j : Nat} (h : j < bytes.length) :
    memRead (memWriteBytes m base bytes) (base + j) = bytes.getD j 0x00 := by
  rw [memRead_memWriteBytes, if_pos (by omega), Nat.add_sub_cancel_left]

theorem memRead_memWriteCells_outside (m : Memory) (cells : List Host.Cell) (x : Nat) (h : ∀ c ∈ cells, c.1 ≠ x) :
    memRead (memWriteCells m cells) x = memRead m x := by
  induction cells generalizing m with
  | nil => rfl
  | cons c cs ih =>
    rw [memWriteCells, ih _ fun c' h' => h c' (by simp [h']), memRead_memWrite_other _ _ (h c (by simp)).symm]

@[simp] theorem memReadBytes_length (m : Memory) (base len : Nat) : (memReadBytes m base len).length = len := by
  simp [memReadBytes]

theorem memReadBytes_getD (m : Memory) (base : Nat) {len j : Nat} (h : j < len) :
    (memReadBytes m base len).getD j 0x00 = memRead m (base + j) := by
  simp [memReadBytes, List.getD_eq_getElem?_getD, h]

/-! ### The canonical form -/

theorem Memory.wf_iff (m : Memory) :
    Memory.wf m = true ↔ m.Pairwise (fun e f => e.1 < f.1) ∧ ∀ e ∈ m, e.2 ≠ unlistedByte := by
  simp [Memory.wf, List.pairwise_map]

theorem Memory.wf_nil : Memory.wf [] = true := by decide

theorem Memory.wf_reset : Memory.wf State.reset.dmem = true := Memory.wf_nil

theorem Memory.wf_memErase {m : Memory} (addr : Nat) (h : Memory.wf m = true) : Memory.wf (memErase m addr) = true := by
  rw [Memory.wf_iff] at *
  exact ⟨h.1.filter _, fun e he => h.2 e (List.mem_filter.mp he).1⟩

theorem mem_memInsert {m : Memory} {addr : Nat} {v : Byte} {e : Host.Cell} :
    e ∈ memInsert m addr v ↔ e = (addr, v) ∨ e ∈ m := by
  induction m with
  | nil => simp [memInsert]
  | cons f m ih =>
    unfold memInsert
    split
    · simp
    · simp only [List.mem_cons, ih]; tauto

theorem Memory.wf_memInsert {m : Memory} {addr : Nat} {v : Byte} (h : Memory.wf m = true) (hv : v ≠ unlistedByte)
    (fresh : ∀ e ∈ m, e.1 ≠ addr) : Memory.wf (memInsert m addr v) = true := by
  rw [Memory.wf_iff] at *
  refine ⟨?_, fun e he => ?_⟩
  · obtain ⟨sorted, -⟩ := h
    induction m with
    | nil => simp [memInsert]
    | cons f m ih =>
      rw [List.pairwise_cons] at sorted
      unfold memInsert
      split
      · next hlt =>
        refine List.pairwise_cons.mpr ⟨fun e he => ?_, List.pairwise_cons.mpr sorted⟩
        rcases List.mem_cons.mp he with rfl | he
        · exact hlt
        · exact hlt.trans (sorted.1 e he)
      · next hlt =>
        refine List.pairwise_cons.mpr ⟨fun e he => ?_, ih (fun e he => fresh e (by simp [he])) sorted.2⟩
        rcases mem_memInsert.mp he with rfl | he
        · have := fresh f (by simp); simp only; omega
        · exact sorted.1 e he
  · rcases mem_memInsert.mp he with rfl | he
    · exact hv
    · exact h.2 e he

theorem Memory.wf_memWrite {m : Memory} (addr : Nat) (v : Byte) (h : Memory.wf m = true) :
    Memory.wf (memWrite m addr v) = true := by
  unfold memWrite
  split
  · exact wf_memErase addr h
  · next hv => exact wf_memInsert (wf_memErase addr h) hv (memErase_fresh m addr)

theorem Memory.wf_memWriteBytes {m : Memory} (base : Nat) (bytes : List Byte) (h : Memory.wf m = true) :
    Memory.wf (memWriteBytes m base bytes) = true := by
  induction bytes generalizing m base with
  | nil => exact h
  | cons v vs ih => exact ih _ (wf_memWrite base v h)

theorem Memory.wf_memWriteCells {m : Memory} (cells : List Host.Cell) (h : Memory.wf m = true) :
    Memory.wf (memWriteCells m cells) = true := by
  induction cells generalizing m with
  | nil => exact h
  | cons c cs ih => exact ih (wf_memWrite c.1 c.2 h)

/-! ### Which addresses are listed -/

theorem memWrite_address {m : Memory} {addr : Nat} {v : Byte} {e : Host.Cell} (h : e ∈ memWrite m addr v) :
    e ∈ m ∨ e.1 = addr := by
  unfold memWrite at h
  split at h
  · exact .inl (List.mem_filter.mp h).1
  · rcases mem_memInsert.mp h with rfl | h
    · exact .inr rfl
    · exact .inl (List.mem_filter.mp h).1

theorem memWriteBytes_address {m : Memory} {base : Nat} {bytes : List Byte} {e : Host.Cell}
    (h : e ∈ memWriteBytes m base bytes) : e ∈ m ∨ (base ≤ e.1 ∧ e.1 < base + bytes.length) := by
  induction bytes generalizing m base with
  | nil => exact .inl h
  | cons v vs ih =>
    rcases ih h with h | h
    · rcases memWrite_address h with h | h
      · exact .inl h
      · exact .inr (by simp; omega)
    · exact .inr (by simp; omega)

theorem memWriteCells_address {m : Memory} {cells : List Host.Cell} {e : Host.Cell} (h : e ∈ memWriteCells m cells) :
    e ∈ m ∨ ∃ c ∈ cells, c.1 = e.1 := by
  induction cells generalizing m with
  | nil => exact .inl h
  | cons c cs ih =>
    rcases ih h with h | ⟨c', h, h'⟩
    · rcases memWrite_address h with h | h
      · exact .inl h
      · exact .inr ⟨c, by simp, h.symm⟩
    · exact .inr ⟨c', by simp [h], h'⟩

/-! ### Equal memories are equal data -/

theorem memRead_of_lt {m : Memory} {x : Nat} (h : ∀ e ∈ m, x < e.1) : memRead m x = unlistedByte := by
  induction m with
  | nil => rfl
  | cons e m ih =>
    rw [memRead, if_neg (by have := h e (by simp); omega)]
    exact ih fun f hf => h f (by simp [hf])

/-- Two memories in canonical form that read alike are the same list. -/
theorem Memory.ext_of_wf {m m' : Memory} (h : Memory.wf m = true) (h' : Memory.wf m' = true)
    (same : ∀ x, memRead m x = memRead m' x) : m = m' := by
  rw [Memory.wf_iff] at h h'
  induction m generalizing m' with
  | nil =>
    cases m' with
    | nil => rfl
    | cons f m' =>
      have := same f.1
      simp only [memRead, if_true] at this
      exact absurd this.symm (h'.2 f (by simp))
  | cons e m ih =>
    cases m' with
    | nil =>
      have := same e.1
      simp only [memRead, if_true] at this
      exact absurd this (h.2 e (by simp))
    | cons f m' =>
      have hs := List.pairwise_cons.mp h.1
      have hs' := List.pairwise_cons.mp h'.1
      have hkey : e.1 = f.1 := by
        rcases Nat.lt_trichotomy e.1 f.1 with hlt | heq | hgt
        · have := same e.1
          rw [memRead_of_lt (m := f :: m') fun c hc => ?_] at this
          · simp only [memRead, if_true] at this
            exact absurd this (h.2 e (by simp))
          · rcases List.mem_cons.mp hc with rfl | hc
            · exact hlt
            · exact hlt.trans (hs'.1 c hc)
        · exact heq
        · have := same f.1
          rw [memRead_of_lt (m := e :: m) fun c hc => ?_] at this
          · simp only [memRead, if_true] at this
            exact absurd this.symm (h'.2 f (by simp))
          · rcases List.mem_cons.mp hc with rfl | hc
            · exact hgt
            · exact hgt.trans (hs.1 c hc)
      have hval : e.2 = f.2 := by
        have := same e.1
        simpa [memRead, hkey] using this
      have htail : m = m' := by
        refine ih ⟨hs.2, fun c hc => h.2 c (by simp [hc])⟩ ⟨hs'.2, fun c hc => h'.2 c (by simp [hc])⟩ fun x => ?_
        by_cases hx : e.1 = x
        · subst hx
          rw [memRead_of_lt hs.1, memRead_of_lt (by rw [hkey]; exact hs'.1)]
        · have := same x
          simpa [memRead, hx, hkey ▸ hx] using this
      rw [htail, Prod.ext hkey hval]

end Sys2Proof.Machine
end

