-- ==== Sys2Proof/Laws/State.lean ====
section
/-! SUPPORT. What each update of the state does to each field: one lemma per field per update, each true by `rfl`, so that no proof
unfolds a record update. -/

namespace Sys2Proof.Machine

variable (s : State)

/-! ### `State.setG` -/

@[simp] theorem State.setG_g (r : Fin 16) (v : Byte) : (s.setG r v).g = s.g.set r v := rfl
@[simp] theorem State.setG_banks (r : Fin 16) (v : Byte) : (s.setG r v).banks = s.banks := rfl
@[simp] theorem State.setG_k (r : Fin 16) (v : Byte) : (s.setG r v).k = s.k := rfl
@[simp] theorem State.setG_n (r : Fin 16) (v : Byte) : (s.setG r v).n = s.n := rfl
@[simp] theorem State.setG_cfgok (r : Fin 16) (v : Byte) : (s.setG r v).cfgok = s.cfgok := rfl
@[simp] theorem State.setG_src (r : Fin 16) (v : Byte) : (s.setG r v).src = s.src := rfl
@[simp] theorem State.setG_dst (r : Fin 16) (v : Byte) : (s.setG r v).dst = s.dst := rfl
@[simp] theorem State.setG_blen (r : Fin 16) (v : Byte) : (s.setG r v).blen = s.blen := rfl
@[simp] theorem State.setG_pcnt (r : Fin 16) (v : Byte) : (s.setG r v).pcnt = s.pcnt := rfl
@[simp] theorem State.setG_pidx (r : Fin 16) (v : Byte) : (s.setG r v).pidx = s.pidx := rfl
@[simp] theorem State.setG_status (r : Fin 16) (v : Byte) : (s.setG r v).status = s.status := rfl
@[simp] theorem State.setG_rval (r : Fin 16) (v : Byte) : (s.setG r v).rval = s.rval := rfl
@[simp] theorem State.setG_ccnt (r : Fin 16) (v : Byte) : (s.setG r v).ccnt = s.ccnt := rfl
@[simp] theorem State.setG_dmem (r : Fin 16) (v : Byte) : (s.setG r v).dmem = s.dmem := rfl
@[simp] theorem State.setG_dmemBytes (r : Fin 16) (v : Byte) : (s.setG r v).dmemBytes = s.dmemBytes := rfl
@[simp] theorem State.setG_inputs (r : Fin 16) (v : Byte) : (s.setG r v).inputs = s.inputs := rfl
@[simp] theorem State.setG_fresh (r : Fin 16) (v : Byte) : (s.setG r v).fresh = s.fresh := rfl

/-! ### `State.setBank` -/

@[simp] theorem State.setBank_g (b : Fin 4) (x : MatrixVal) : (s.setBank b x).g = s.g := rfl
@[simp] theorem State.setBank_banks (b : Fin 4) (x : MatrixVal) : (s.setBank b x).banks = s.banks.set b x := rfl
@[simp] theorem State.setBank_k (b : Fin 4) (x : MatrixVal) : (s.setBank b x).k = s.k := rfl
@[simp] theorem State.setBank_n (b : Fin 4) (x : MatrixVal) : (s.setBank b x).n = s.n := rfl
@[simp] theorem State.setBank_cfgok (b : Fin 4) (x : MatrixVal) : (s.setBank b x).cfgok = s.cfgok := rfl
@[simp] theorem State.setBank_src (b : Fin 4) (x : MatrixVal) : (s.setBank b x).src = s.src := rfl
@[simp] theorem State.setBank_dst (b : Fin 4) (x : MatrixVal) : (s.setBank b x).dst = s.dst := rfl
@[simp] theorem State.setBank_blen (b : Fin 4) (x : MatrixVal) : (s.setBank b x).blen = s.blen := rfl
@[simp] theorem State.setBank_pcnt (b : Fin 4) (x : MatrixVal) : (s.setBank b x).pcnt = s.pcnt := rfl
@[simp] theorem State.setBank_pidx (b : Fin 4) (x : MatrixVal) : (s.setBank b x).pidx = s.pidx := rfl
@[simp] theorem State.setBank_status (b : Fin 4) (x : MatrixVal) : (s.setBank b x).status = s.status := rfl
@[simp] theorem State.setBank_rval (b : Fin 4) (x : MatrixVal) : (s.setBank b x).rval = s.rval := rfl
@[simp] theorem State.setBank_ccnt (b : Fin 4) (x : MatrixVal) : (s.setBank b x).ccnt = s.ccnt := rfl
@[simp] theorem State.setBank_dmem (b : Fin 4) (x : MatrixVal) : (s.setBank b x).dmem = s.dmem := rfl
@[simp] theorem State.setBank_dmemBytes (b : Fin 4) (x : MatrixVal) : (s.setBank b x).dmemBytes = s.dmemBytes := rfl
@[simp] theorem State.setBank_inputs (b : Fin 4) (x : MatrixVal) : (s.setBank b x).inputs = s.inputs := rfl
@[simp] theorem State.setBank_fresh (b : Fin 4) (x : MatrixVal) : (s.setBank b x).fresh = s.fresh := rfl

/-! ### `State.setPidx` -/

@[simp] theorem State.setPidx_g (slot v : Byte) : (s.setPidx slot v).g = s.g := rfl
@[simp] theorem State.setPidx_banks (slot v : Byte) : (s.setPidx slot v).banks = s.banks := rfl
@[simp] theorem State.setPidx_k (slot v : Byte) : (s.setPidx slot v).k = s.k := rfl
@[simp] theorem State.setPidx_n (slot v : Byte) : (s.setPidx slot v).n = s.n := rfl
@[simp] theorem State.setPidx_cfgok (slot v : Byte) : (s.setPidx slot v).cfgok = s.cfgok := rfl
@[simp] theorem State.setPidx_src (slot v : Byte) : (s.setPidx slot v).src = s.src := rfl
@[simp] theorem State.setPidx_dst (slot v : Byte) : (s.setPidx slot v).dst = s.dst := rfl
@[simp] theorem State.setPidx_blen (slot v : Byte) : (s.setPidx slot v).blen = s.blen := rfl
@[simp] theorem State.setPidx_pcnt (slot v : Byte) : (s.setPidx slot v).pcnt = s.pcnt := rfl
@[simp] theorem State.setPidx_pidx (slot v : Byte) : (s.setPidx slot v).pidx = s.pidx.set slot.toNat v slot.isLt := rfl
@[simp] theorem State.setPidx_status (slot v : Byte) : (s.setPidx slot v).status = s.status := rfl
@[simp] theorem State.setPidx_rval (slot v : Byte) : (s.setPidx slot v).rval = s.rval := rfl
@[simp] theorem State.setPidx_ccnt (slot v : Byte) : (s.setPidx slot v).ccnt = s.ccnt := rfl
@[simp] theorem State.setPidx_dmem (slot v : Byte) : (s.setPidx slot v).dmem = s.dmem := rfl
@[simp] theorem State.setPidx_dmemBytes (slot v : Byte) : (s.setPidx slot v).dmemBytes = s.dmemBytes := rfl
@[simp] theorem State.setPidx_inputs (slot v : Byte) : (s.setPidx slot v).inputs = s.inputs := rfl
@[simp] theorem State.setPidx_fresh (slot v : Byte) : (s.setPidx slot v).fresh = s.fresh := rfl

/-! ### `State.setDmem` -/

@[simp] theorem State.setDmem_g (m : Memory) : (s.setDmem m).g = s.g := rfl
@[simp] theorem State.setDmem_banks (m : Memory) : (s.setDmem m).banks = s.banks := rfl
@[simp] theorem State.setDmem_k (m : Memory) : (s.setDmem m).k = s.k := rfl
@[simp] theorem State.setDmem_n (m : Memory) : (s.setDmem m).n = s.n := rfl
@[simp] theorem State.setDmem_cfgok (m : Memory) : (s.setDmem m).cfgok = s.cfgok := rfl
@[simp] theorem State.setDmem_src (m : Memory) : (s.setDmem m).src = s.src := rfl
@[simp] theorem State.setDmem_dst (m : Memory) : (s.setDmem m).dst = s.dst := rfl
@[simp] theorem State.setDmem_blen (m : Memory) : (s.setDmem m).blen = s.blen := rfl
@[simp] theorem State.setDmem_pcnt (m : Memory) : (s.setDmem m).pcnt = s.pcnt := rfl
@[simp] theorem State.setDmem_pidx (m : Memory) : (s.setDmem m).pidx = s.pidx := rfl
@[simp] theorem State.setDmem_status (m : Memory) : (s.setDmem m).status = s.status := rfl
@[simp] theorem State.setDmem_rval (m : Memory) : (s.setDmem m).rval = s.rval := rfl
@[simp] theorem State.setDmem_ccnt (m : Memory) : (s.setDmem m).ccnt = s.ccnt := rfl
@[simp] theorem State.setDmem_dmem (m : Memory) : (s.setDmem m).dmem = m := rfl
@[simp] theorem State.setDmem_dmemBytes (m : Memory) : (s.setDmem m).dmemBytes = s.dmemBytes := rfl
@[simp] theorem State.setDmem_inputs (m : Memory) : (s.setDmem m).inputs = s.inputs := rfl
@[simp] theorem State.setDmem_fresh (m : Memory) : (s.setDmem m).fresh = s.fresh := rfl

/-! ### `State.respond` -/

@[simp] theorem State.respond_g (status : Status) (rval : Word32) : (s.respond status rval).g = s.g := rfl
@[simp] theorem State.respond_banks (status : Status) (rval : Word32) : (s.respond status rval).banks = s.banks := rfl
@[simp] theorem State.respond_k (status : Status) (rval : Word32) : (s.respond status rval).k = s.k := rfl
@[simp] theorem State.respond_n (status : Status) (rval : Word32) : (s.respond status rval).n = s.n := rfl
@[simp] theorem State.respond_cfgok (status : Status) (rval : Word32) : (s.respond status rval).cfgok = s.cfgok := rfl
@[simp] theorem State.respond_src (status : Status) (rval : Word32) : (s.respond status rval).src = s.src := rfl
@[simp] theorem State.respond_dst (status : Status) (rval : Word32) : (s.respond status rval).dst = s.dst := rfl
@[simp] theorem State.respond_blen (status : Status) (rval : Word32) : (s.respond status rval).blen = s.blen := rfl
@[simp] theorem State.respond_pcnt (status : Status) (rval : Word32) : (s.respond status rval).pcnt = s.pcnt := rfl
@[simp] theorem State.respond_pidx (status : Status) (rval : Word32) : (s.respond status rval).pidx = s.pidx := rfl
@[simp] theorem State.respond_status (status : Status) (rval : Word32) : (s.respond status rval).status = status := rfl
@[simp] theorem State.respond_rval (status : Status) (rval : Word32) : (s.respond status rval).rval = rval := rfl
@[simp] theorem State.respond_ccnt (status : Status) (rval : Word32) : (s.respond status rval).ccnt = s.ccnt + 1 := rfl
@[simp] theorem State.respond_dmem (status : Status) (rval : Word32) : (s.respond status rval).dmem = s.dmem := rfl
@[simp] theorem State.respond_dmemBytes (status : Status) (rval : Word32) : (s.respond status rval).dmemBytes = s.dmemBytes := rfl
@[simp] theorem State.respond_inputs (status : Status) (rval : Word32) : (s.respond status rval).inputs = s.inputs := rfl
@[simp] theorem State.respond_fresh (status : Status) (rval : Word32) : (s.respond status rval).fresh = s.fresh := rfl

/-! ### `State.configure` -/

@[simp] theorem State.configure_g (k n : BitVec 16) : (s.configure k n).g = s.g := rfl
@[simp] theorem State.configure_banks (k n : BitVec 16) : (s.configure k n).banks = s.banks.set 0 (gen k.toNat n.toNat) := rfl
@[simp] theorem State.configure_k (k n : BitVec 16) : (s.configure k n).k = k.extractLsb' 0 8 := rfl
@[simp] theorem State.configure_n (k n : BitVec 16) : (s.configure k n).n = n.extractLsb' 0 8 := rfl
@[simp] theorem State.configure_cfgok (k n : BitVec 16) : (s.configure k n).cfgok = true := rfl
@[simp] theorem State.configure_src (k n : BitVec 16) : (s.configure k n).src = s.src := rfl
@[simp] theorem State.configure_dst (k n : BitVec 16) : (s.configure k n).dst = s.dst := rfl
@[simp] theorem State.configure_blen (k n : BitVec 16) : (s.configure k n).blen = s.blen := rfl
@[simp] theorem State.configure_pcnt (k n : BitVec 16) : (s.configure k n).pcnt = s.pcnt := rfl
@[simp] theorem State.configure_pidx (k n : BitVec 16) : (s.configure k n).pidx = s.pidx := rfl
@[simp] theorem State.configure_status (k n : BitVec 16) : (s.configure k n).status = s.status := rfl
@[simp] theorem State.configure_rval (k n : BitVec 16) : (s.configure k n).rval = s.rval := rfl
@[simp] theorem State.configure_ccnt (k n : BitVec 16) : (s.configure k n).ccnt = s.ccnt := rfl
@[simp] theorem State.configure_dmem (k n : BitVec 16) : (s.configure k n).dmem = s.dmem := rfl
@[simp] theorem State.configure_dmemBytes (k n : BitVec 16) : (s.configure k n).dmemBytes = s.dmemBytes := rfl
@[simp] theorem State.configure_inputs (k n : BitVec 16) : (s.configure k n).inputs = s.inputs := rfl
@[simp] theorem State.configure_fresh (k n : BitVec 16) : (s.configure k n).fresh = s.fresh := rfl

/-! ### `State.writeDestination` -/

@[simp] theorem State.writeDestination_g (blocks : List (List Byte)) (count : Nat) : (s.writeDestination blocks count).g = s.g := rfl
@[simp] theorem State.writeDestination_banks (blocks : List (List Byte)) (count : Nat) : (s.writeDestination blocks count).banks = s.banks := rfl
@[simp] theorem State.writeDestination_k (blocks : List (List Byte)) (count : Nat) : (s.writeDestination blocks count).k = s.k := rfl
@[simp] theorem State.writeDestination_n (blocks : List (List Byte)) (count : Nat) : (s.writeDestination blocks count).n = s.n := rfl
@[simp] theorem State.writeDestination_cfgok (blocks : List (List Byte)) (count : Nat) : (s.writeDestination blocks count).cfgok = s.cfgok := rfl
@[simp] theorem State.writeDestination_src (blocks : List (List Byte)) (count : Nat) : (s.writeDestination blocks count).src = s.src := rfl
@[simp] theorem State.writeDestination_dst (blocks : List (List Byte)) (count : Nat) : (s.writeDestination blocks count).dst = s.dst := rfl
@[simp] theorem State.writeDestination_blen (blocks : List (List Byte)) (count : Nat) : (s.writeDestination blocks count).blen = s.blen := rfl
@[simp] theorem State.writeDestination_pcnt (blocks : List (List Byte)) (count : Nat) : (s.writeDestination blocks count).pcnt = s.pcnt := rfl
@[simp] theorem State.writeDestination_pidx (blocks : List (List Byte)) (count : Nat) : (s.writeDestination blocks count).pidx = s.pidx := rfl
@[simp] theorem State.writeDestination_status (blocks : List (List Byte)) (count : Nat) : (s.writeDestination blocks count).status = s.status := rfl
@[simp] theorem State.writeDestination_rval (blocks : List (List Byte)) (count : Nat) : (s.writeDestination blocks count).rval = s.rval := rfl
@[simp] theorem State.writeDestination_ccnt (blocks : List (List Byte)) (count : Nat) : (s.writeDestination blocks count).ccnt = s.ccnt := rfl
@[simp] theorem State.writeDestination_dmem (blocks : List (List Byte)) (count : Nat) : (s.writeDestination blocks count).dmem = memWriteBytes s.dmem s.dst.toNat (regionBytes blocks count s.blen.toNat) := rfl
@[simp] theorem State.writeDestination_dmemBytes (blocks : List (List Byte)) (count : Nat) : (s.writeDestination blocks count).dmemBytes = s.dmemBytes := rfl
@[simp] theorem State.writeDestination_inputs (blocks : List (List Byte)) (count : Nat) : (s.writeDestination blocks count).inputs = s.inputs := rfl
@[simp] theorem State.writeDestination_fresh (blocks : List (List Byte)) (count : Nat) : (s.writeDestination blocks count).fresh = s.fresh := rfl

/-! ### `State.recover` -/

@[simp] theorem State.recover_g (x : MatrixVal) : (s.recover x).g = s.g := rfl
@[simp] theorem State.recover_banks (x : MatrixVal) : (s.recover x).banks = (s.banks.set 1 s.selectedMatrix).set 2 x := rfl
@[simp] theorem State.recover_k (x : MatrixVal) : (s.recover x).k = s.k := rfl
@[simp] theorem State.recover_n (x : MatrixVal) : (s.recover x).n = s.n := rfl
@[simp] theorem State.recover_cfgok (x : MatrixVal) : (s.recover x).cfgok = s.cfgok := rfl
@[simp] theorem State.recover_src (x : MatrixVal) : (s.recover x).src = s.src := rfl
@[simp] theorem State.recover_dst (x : MatrixVal) : (s.recover x).dst = s.dst := rfl
@[simp] theorem State.recover_blen (x : MatrixVal) : (s.recover x).blen = s.blen := rfl
@[simp] theorem State.recover_pcnt (x : MatrixVal) : (s.recover x).pcnt = s.pcnt := rfl
@[simp] theorem State.recover_pidx (x : MatrixVal) : (s.recover x).pidx = s.pidx := rfl
@[simp] theorem State.recover_status (x : MatrixVal) : (s.recover x).status = s.status := rfl
@[simp] theorem State.recover_rval (x : MatrixVal) : (s.recover x).rval = s.rval := rfl
@[simp] theorem State.recover_ccnt (x : MatrixVal) : (s.recover x).ccnt = s.ccnt := rfl
@[simp] theorem State.recover_dmem (x : MatrixVal) : (s.recover x).dmem = memWriteBytes s.dmem s.dst.toNat (regionBytes (blockMul x s.selectedBlocks s.blen.toNat) s.k.toNat s.blen.toNat) := rfl
@[simp] theorem State.recover_dmemBytes (x : MatrixVal) : (s.recover x).dmemBytes = s.dmemBytes := rfl
@[simp] theorem State.recover_inputs (x : MatrixVal) : (s.recover x).inputs = s.inputs := rfl
@[simp] theorem State.recover_fresh (x : MatrixVal) : (s.recover x).fresh = s.fresh := rfl

/-! ### `State.presentNext` -/

@[simp] theorem State.presentNext_g (w : Command) : (s.presentNext w).g = s.g := rfl
@[simp] theorem State.presentNext_banks (w : Command) : (s.presentNext w).banks = s.banks := rfl
@[simp] theorem State.presentNext_k (w : Command) : (s.presentNext w).k = s.k := rfl
@[simp] theorem State.presentNext_n (w : Command) : (s.presentNext w).n = s.n := rfl
@[simp] theorem State.presentNext_cfgok (w : Command) : (s.presentNext w).cfgok = s.cfgok := rfl
@[simp] theorem State.presentNext_src (w : Command) : (s.presentNext w).src = s.src := rfl
@[simp] theorem State.presentNext_dst (w : Command) : (s.presentNext w).dst = s.dst := rfl
@[simp] theorem State.presentNext_blen (w : Command) : (s.presentNext w).blen = s.blen := rfl
@[simp] theorem State.presentNext_pcnt (w : Command) : (s.presentNext w).pcnt = s.pcnt := rfl
@[simp] theorem State.presentNext_pidx (w : Command) : (s.presentNext w).pidx = s.pidx := rfl
@[simp] theorem State.presentNext_status (w : Command) : (s.presentNext w).status = s.status := rfl
@[simp] theorem State.presentNext_rval (w : Command) : (s.presentNext w).rval = s.rval := rfl
@[simp] theorem State.presentNext_ccnt (w : Command) : (s.presentNext w).ccnt = s.ccnt := rfl
@[simp] theorem State.presentNext_dmem (w : Command) : (s.presentNext w).dmem = s.dmem := rfl
@[simp] theorem State.presentNext_dmemBytes (w : Command) : (s.presentNext w).dmemBytes = s.dmemBytes := rfl
@[simp] theorem State.presentNext_inputs (w : Command) : (s.presentNext w).inputs = .command w :: s.inputs := rfl
@[simp] theorem State.presentNext_fresh (w : Command) : (s.presentNext w).fresh = s.fresh := rfl

/-! ### `State.resetKeepingDmem` -/

@[simp] theorem State.resetKeepingDmem_g : (s.resetKeepingDmem).g = Vector.replicate 16 0x00 := rfl
@[simp] theorem State.resetKeepingDmem_banks : (s.resetKeepingDmem).banks = Vector.replicate 4 ⟨0, 0, []⟩ := rfl
@[simp] theorem State.resetKeepingDmem_k : (s.resetKeepingDmem).k = 0 := rfl
@[simp] theorem State.resetKeepingDmem_n : (s.resetKeepingDmem).n = 0 := rfl
@[simp] theorem State.resetKeepingDmem_cfgok : (s.resetKeepingDmem).cfgok = false := rfl
@[simp] theorem State.resetKeepingDmem_src : (s.resetKeepingDmem).src = 0 := rfl
@[simp] theorem State.resetKeepingDmem_dst : (s.resetKeepingDmem).dst = 0 := rfl
@[simp] theorem State.resetKeepingDmem_blen : (s.resetKeepingDmem).blen = 0 := rfl
@[simp] theorem State.resetKeepingDmem_pcnt : (s.resetKeepingDmem).pcnt = 0 := rfl
@[simp] theorem State.resetKeepingDmem_pidx : (s.resetKeepingDmem).pidx = Vector.replicate 256 0x00 := rfl
@[simp] theorem State.resetKeepingDmem_status : (s.resetKeepingDmem).status = .ok := rfl
@[simp] theorem State.resetKeepingDmem_rval : (s.resetKeepingDmem).rval = 0 := rfl
@[simp] theorem State.resetKeepingDmem_ccnt : (s.resetKeepingDmem).ccnt = 0 := rfl
@[simp] theorem State.resetKeepingDmem_dmem : (s.resetKeepingDmem).dmem = s.dmem := rfl
@[simp] theorem State.resetKeepingDmem_dmemBytes : (s.resetKeepingDmem).dmemBytes = s.dmemBytes := rfl
@[simp] theorem State.resetKeepingDmem_inputs : (s.resetKeepingDmem).inputs = s.inputs := rfl
@[simp] theorem State.resetKeepingDmem_fresh : (s.resetKeepingDmem).fresh = s.fresh := rfl

/-- Presenting a command and taking it from the port again leaves the state. -/
@[simp] theorem State.presentNext_taken (w : Command) : { s.presentNext w with inputs := s.inputs } = s := rfl

end Sys2Proof.Machine
end

