-- ==== Sys2Proof/Laws/Ops.lean ====
section
/-! SUPPORT. What each shared operation can do, said once: operand forms, the two ways a command ends, cells, control registers. -/

namespace Sys2Proof.Machine

/-! ### Operand forms -/

theorem gregOf_eq_some {a : Byte} {r : Fin 16} : gregOf a = some r ↔ a.toNat = r.val := by
  unfold gregOf
  split
  · simp [Fin.ext_iff]
  · simp; omega

theorem gregOf_eq_none {a : Byte} : gregOf a = none ↔ 15 < a.toNat := by
  unfold gregOf
  split <;> simp <;> omega

@[simp] theorem gregOf_ofNat (r : Fin 16) : gregOf (BitVec.ofNat 8 r.val) = some r := by
  rw [gregOf_eq_some, BitVec.toNat_ofNat]; omega

theorem bankOf_eq_some {a : Byte} {b : Fin 4} : bankOf a = some b ↔ a.toNat = b.val := by
  unfold bankOf
  split
  · simp [Fin.ext_iff]
  · simp; omega

theorem bankOf_eq_none {a : Byte} : bankOf a = none ↔ 3 < a.toNat := by
  unfold bankOf
  split <;> simp <;> omega

@[simp] theorem bankOf_ofNat (b : Fin 4) : bankOf (BitVec.ofNat 8 b.val) = some b := by
  rw [bankOf_eq_some, BitVec.toNat_ofNat]; omega

theorem destBankOf_eq_some {a : Byte} {b : Fin 4} : destBankOf a = some b ↔ a.toNat = b.val ∧ b ≠ 0 := by
  unfold destBankOf
  split
  · next h =>
    have h0 : a.toNat = 0 := by rw [h]; rfl
    refine iff_of_false (by simp) fun hb => hb.2 (Fin.ext ?_)
    rw [← hb.1, h0]; rfl
  · next h =>
    rw [bankOf_eq_some]
    refine ⟨fun e => ⟨e, fun hb => h ?_⟩, And.left⟩
    subst hb
    exact BitVec.eq_of_toNat_eq (by simpa using e)

theorem destBankOf_eq_none {a : Byte} : destBankOf a = none ↔ a = 0 ∨ 3 < a.toNat := by
  unfold destBankOf
  split
  · next h => simp [h]
  · next h => rw [bankOf_eq_none, or_iff_right h]

@[simp] theorem destBankOf_ofNat {b : Fin 4} (h : b ≠ 0) : destBankOf (BitVec.ofNat 8 b.val) = some b := by
  refine destBankOf_eq_some.mpr ⟨?_, h⟩
  rw [BitVec.toNat_ofNat]; omega

@[simp] theorem nibbleReg_ofNat (r : Fin 16) : nibbleReg (BitVec.ofNat 4 r.val) = r := by
  refine Fin.ext ?_
  simp only [nibbleReg, BitVec.toFin_ofNat, Fin.val_ofNat]
  omega

@[simp] theorem nibbleReg_val (a : BitVec 4) : (nibbleReg a).val = a.toNat := rfl

/-! ### How a command ends -/

@[simp] theorem complete_next {v : Word32} {s t : State} : complete v s = .next t ↔ t = s.respond .ok v := by
  simp [complete, eq_comm]

@[simp] theorem raise_next {status : Status} {info : Word32} {s t : State} :
    raise status info s = .next t ↔ t = s.respond status info := by
  simp [raise, eq_comm]

@[simp] theorem withOperand_some {α : Type} (x : α) (s : State) (rest : α → Res) : withOperand (some x) s rest = rest x := rfl

@[simp] theorem withOperand_none {α : Type} (s : State) (rest : α → Res) :
    withOperand (none : Option α) s rest = .next (s.respond .badOperand 0) := rfl

/-- A command with an operand answers BAD_OPERAND, or what the rest of it answers on the operand. -/
theorem withOperand_cases {α : Type} {operand : Option α} {s t : State} {rest : α → Res}
    (h : withOperand operand s rest = .next t) :
    (operand = none ∧ t = s.respond .badOperand 0) ∨ ∃ x, operand = some x ∧ rest x = .next t := by
  cases operand with
  | none => exact .inl ⟨rfl, by simpa [eq_comm] using h⟩
  | some x => exact .inr ⟨x, rfl, h⟩

/-- A scalar register is written with the byte that is answered (rule R73). -/
@[simp] theorem completeG_next {d : Fin 16} {v : Byte} {s t : State} :
    completeG d v s = .next t ↔ t = (s.setG d v).respond .ok (zext32 v) := by
  simp [completeG]

/-- GFADD and GFMUL answer BAD_OPERAND, or write the field operation of two registers of the pre-state. -/
theorem fieldOp_cases {op : Byte → Byte → Byte} {gd ga gb : Byte} {s t : State} (h : fieldOp op gd ga gb s = .next t) :
    t = s.respond .badOperand 0 ∨ ∃ d a b : Fin 16, gd.toNat = d.val ∧ ga.toNat = a.val ∧ gb.toNat = b.val
      ∧ t = (s.setG d (op s.g[a] s.g[b])).respond .ok (zext32 (op s.g[a] s.g[b])) := by
  rcases withOperand_cases h with ⟨-, h⟩ | ⟨d, hd, h⟩
  · exact .inl h
  rcases withOperand_cases h with ⟨-, h⟩ | ⟨a, ha, h⟩
  · exact .inl h
  rcases withOperand_cases h with ⟨-, h⟩ | ⟨b, hb, h⟩
  · exact .inl h
  exact .inr ⟨d, a, b, gregOf_eq_some.mp hd, gregOf_eq_some.mp ha, gregOf_eq_some.mp hb, completeG_next.mp h⟩

/-- A command on a cell answers DIM_ERROR when there is no such cell, and otherwise what the rest of it answers. -/
theorem withCell_cases {x : MatrixVal} {row col : Byte} {s t : State} {rest : Res} (h : withCell x row col s rest = .next t) :
    ((x.rows ≤ row.toNat ∨ x.cols ≤ col.toNat) ∧ t = s.respond .dimError 0)
      ∨ (row.toNat < x.rows ∧ col.toNat < x.cols ∧ rest = .next t) := by
  unfold withCell at h
  split at h
  · next hc => exact .inr ⟨(by simpa [MatrixVal.hasCell] using hc : _ ∧ _).1, (by simpa [MatrixVal.hasCell] using hc : _ ∧ _).2, h⟩
  · next hc =>
    refine .inl ⟨?_, raise_next.mp h⟩
    simp only [MatrixVal.hasCell, decide_eq_true_eq] at hc
    omega

/-- MWRI and MPUT answer BAD_OPERAND, DIM_ERROR, or write one cell of a bank other than bank 0. -/
theorem writeCell_cases {md row col v : Byte} {s t : State} (h : writeCell md row col v s = .next t) :
    t = s.respond .badOperand 0 ∨ ∃ d : Fin 4, d ≠ 0 ∧ md.toNat = d.val
      ∧ (((s.banks[d].rows ≤ row.toNat ∨ s.banks[d].cols ≤ col.toNat) ∧ t = s.respond .dimError 0)
        ∨ (row.toNat < s.banks[d].rows ∧ col.toNat < s.banks[d].cols
          ∧ t = (s.setBank d (s.banks[d].setCell row.toNat col.toNat v)).respond .ok 0)) := by
  rcases withOperand_cases h with ⟨-, h⟩ | ⟨d, hd, h⟩
  · exact .inl h
  have hd := destBankOf_eq_some.mp hd
  refine .inr ⟨d, hd.2, hd.1, ?_⟩
  rcases withCell_cases h with h | ⟨h1, h2, h⟩
  · exact .inl h
  · exact .inr ⟨h1, h2, complete_next.mp h⟩

/-- CRW writes SRC, DST, BLEN, or PCNT with a value up to 255; nothing else (rule R232). -/
theorem crWrite_cases {cr : Byte} {v : Word32} {s s' : State} (h : crWrite cr v s = some s') :
    (cr = 3 ∧ s' = { s with src := v }) ∨ (cr = 4 ∧ s' = { s with dst := v }) ∨ (cr = 5 ∧ s' = { s with blen := v })
      ∨ (cr = 6 ∧ v.toNat ≤ 255 ∧ s' = { s with pcnt := v.extractLsb' 0 8 }) := by
  unfold crWrite at h
  split at h
  · simp_all
  · simp_all
  · simp_all
  · split at h
    · simp at h
    · next hv => simp_all
  · simp at h

/-- The inputs a step runs are the ones the state lists, oldest first. -/
theorem step_cons {s : State} {input : HostInput} {rest : List HostInput} (h : s.inputs = input :: rest) :
    step s = runInput input { s with inputs := rest } := by
  simp [step, h]

/-- Presenting a command word to any state runs it on that state. -/
@[simp] theorem step_presentNext (s : State) (w : Command) : step (s.presentNext w) = runCommand w s := rfl

end Sys2Proof.Machine
end

