-- ==== Sys2Proof/Laws/PerInstr.lean ====
section
/-! SUPPORT. One statement for every command, proved command by command: the word `encode` gives is of the command's own row of
spec/opcode_table.json (rule R72): the row's reserved bits are zero and its opcode stands in the top byte. -/

namespace Sys2Proof

/-- The five fields of the word made of five fields (rule R70). -/
theorem fieldsOf_wordOf (f : Fields) : fieldsOf (wordOf f) = f := by
  obtain ⟨op, a, b, c, imm⟩ := f
  simp only [fieldsOf, wordOf, Fields.mk.injEq]
  refine ⟨?_, ?_, ?_, ?_, ?_⟩ <;>
  · apply BitVec.eq_of_getLsbD_eq
    intro i hi
    simp only [BitVec.getLsbD_extractLsb', BitVec.getLsbD_append, hi, decide_true, Bool.true_and]
    grind

/-- Decoding the word made of five fields looks at those fields. -/
theorem decode_wordOf (f : Fields) : decode (wordOf f) = decodeFields f := by rw [decode, fieldsOf_wordOf]

end Sys2Proof

namespace Sys2Proof.Laws.OpcodeTable

/-- The command's word is of its own row of the opcode table (rule R72). -/
def Statement (i : Instr) : Prop := encode i &&& (opcodeRow i).mask = (opcodeRow i).pattern

theorem append_and_append {m n : Nat} (x x' : BitVec m) (y y' : BitVec n) :
    (x ++ y) &&& (x' ++ y') = (x &&& x') ++ (y &&& y') := by
  apply BitVec.eq_of_getLsbD_eq
  intro i hi
  simp only [BitVec.getLsbD_and, BitVec.getLsbD_append]
  split <;> rfl

theorem byte_and_zero (x : Byte) : x &&& 0 = 0 := BitVec.and_zero

theorem word_and_zero (x : Word32) : x &&& 0 = 0 := BitVec.and_zero

/-- The bitwise and of two words, field by field. -/
theorem wordOf_and (f m : Fields) :
    wordOf f &&& wordOf m = wordOf ⟨f.op &&& m.op, f.a &&& m.a, f.b &&& m.b, f.c &&& m.c, f.imm &&& m.imm⟩ := by
  refine (append_and_append (f.op ++ f.a ++ f.b ++ f.c) (m.op ++ m.a ++ m.b ++ m.c) f.imm m.imm).trans ?_
  rw [append_and_append, append_and_append, append_and_append]
  rfl

/-- A value in the low eight bits of `imm` leaves the bits above it zero. -/
theorem low_byte_and (v : Byte) : (0#24 ++ v : BitVec 32) &&& (0xFFFFFF#24 ++ 0x00#8 : BitVec 32) = 0 := by
  refine (append_and_append 0#24 0xFFFFFF#24 v 0x00#8).trans ?_
  rw [BitVec.and_zero]
  rfl

/-- A value in the low four bits of `imm` leaves the bits above it zero. -/
theorem low_nibble_and (v : BitVec 4) : (0#28 ++ v : BitVec 32) &&& (0xFFFFFFF#28 ++ 0x0#4 : BitVec 32) = 0 := by
  refine (append_and_append 0#28 0xFFFFFFF#28 v 0x0#4).trans ?_
  rw [BitVec.and_zero]
  rfl

/-- A command's word is of its row when the row's mask, given field by field, leaves the row's match. -/
theorem of_fields (i : Instr) (m : Fields) (hm : (opcodeRow i).mask = wordOf m)
    (h : wordOf ⟨(encodeFields i).op &&& m.op, (encodeFields i).a &&& m.a, (encodeFields i).b &&& m.b,
      (encodeFields i).c &&& m.c, (encodeFields i).imm &&& m.imm⟩ = (opcodeRow i).pattern) : Statement i := by
  rw [Statement, encode, hm, wordOf_and, h]

theorem nop : Statement .nop := of_fields _ ⟨0xFF, 0xFF, 0xFF, 0xFF, 0xFFFFFFFF⟩ rfl rfl

theorem srst : Statement .srst := of_fields _ ⟨0xFF, 0xFF, 0xFF, 0xFF, 0xFFFFFFFF⟩ rfl rfl

theorem cfg (k n : BitVec 16) : Statement (.cfg k n) :=
  of_fields _ ⟨0xFF, 0xFF, 0xFF, 0xFF, 0x00000000⟩ rfl (by simp only [encodeFields, word_and_zero]; rfl)

theorem crw (cr : Byte) (value : Word32) : Statement (.crw cr value) :=
  of_fields _ ⟨0xFF, 0x00, 0xFF, 0xFF, 0x00000000⟩ rfl (by simp only [encodeFields, byte_and_zero, word_and_zero]; rfl)

theorem crr (cr : Byte) : Statement (.crr cr) :=
  of_fields _ ⟨0xFF, 0x00, 0xFF, 0xFF, 0xFFFFFFFF⟩ rfl (by simp only [encodeFields, byte_and_zero]; rfl)

theorem pidxw (slot index : Byte) : Statement (.pidxw slot index) :=
  of_fields _ ⟨0xFF, 0x00, 0x00, 0xFF, 0xFFFFFFFF⟩ rfl (by simp only [encodeFields, byte_and_zero]; rfl)

theorem pidxr (slot : Byte) : Statement (.pidxr slot) :=
  of_fields _ ⟨0xFF, 0x00, 0xFF, 0xFF, 0xFFFFFFFF⟩ rfl (by simp only [encodeFields, byte_and_zero]; rfl)

theorem gfldi (gd value : Byte) : Statement (.gfldi gd value) :=
  of_fields _ ⟨0xFF, 0x00, 0x00, 0xFF, 0xFFFFFFFF⟩ rfl (by simp only [encodeFields, byte_and_zero]; rfl)

theorem gfadd (gd ga gb : Byte) : Statement (.gfadd gd ga gb) :=
  of_fields _ ⟨0xFF, 0x00, 0x00, 0x00, 0xFFFFFFFF⟩ rfl (by simp only [encodeFields, byte_and_zero]; rfl)

theorem gfmul (gd ga gb : Byte) : Statement (.gfmul gd ga gb) :=
  of_fields _ ⟨0xFF, 0x00, 0x00, 0x00, 0xFFFFFFFF⟩ rfl (by simp only [encodeFields, byte_and_zero]; rfl)

theorem gfinv (gd ga : Byte) : Statement (.gfinv gd ga) :=
  of_fields _ ⟨0xFF, 0x00, 0x00, 0xFF, 0xFFFFFFFF⟩ rfl (by simp only [encodeFields, byte_and_zero]; rfl)

theorem gfrd (ga : Byte) : Statement (.gfrd ga) :=
  of_fields _ ⟨0xFF, 0x00, 0xFF, 0xFF, 0xFFFFFFFF⟩ rfl (by simp only [encodeFields, byte_and_zero]; rfl)

theorem ldb (gd : Byte) (addr : Word32) : Statement (.ldb gd addr) :=
  of_fields _ ⟨0xFF, 0x00, 0xFF, 0xFF, 0x00000000⟩ rfl (by simp only [encodeFields, byte_and_zero, word_and_zero]; rfl)

theorem stb (ga : Byte) (addr : Word32) : Statement (.stb ga addr) :=
  of_fields _ ⟨0xFF, 0x00, 0xFF, 0xFF, 0x00000000⟩ rfl (by simp only [encodeFields, byte_and_zero, word_and_zero]; rfl)

theorem mdim (md rows cols : Byte) : Statement (.mdim md rows cols) :=
  of_fields _ ⟨0xFF, 0x00, 0x00, 0x00, 0xFFFFFFFF⟩ rfl (by simp only [encodeFields, byte_and_zero]; rfl)

theorem mwri (md row col value : Byte) : Statement (.mwri md row col value) :=
  of_fields _ ⟨0xFF, 0x00, 0x00, 0x00, (0xFFFFFF#24 ++ 0x00#8 : BitVec 32)⟩ rfl (by simp only [encodeFields, byte_and_zero, low_byte_and]; rfl)

theorem mget (ma row col : Byte) (gd : BitVec 4) : Statement (.mget ma row col gd) :=
  of_fields _ ⟨0xFF, 0x00, 0x00, 0x00, (0xFFFFFFF#28 ++ 0x0#4 : BitVec 32)⟩ rfl (by simp only [encodeFields, byte_and_zero, low_nibble_and]; rfl)

theorem mput (md row col : Byte) (ga : BitVec 4) : Statement (.mput md row col ga) :=
  of_fields _ ⟨0xFF, 0x00, 0x00, 0x00, (0xFFFFFFF#28 ++ 0x0#4 : BitVec 32)⟩ rfl (by simp only [encodeFields, byte_and_zero, low_nibble_and]; rfl)

theorem mmul (md ma mb : Byte) : Statement (.mmul md ma mb) :=
  of_fields _ ⟨0xFF, 0x00, 0x00, 0x00, 0xFFFFFFFF⟩ rfl (by simp only [encodeFields, byte_and_zero]; rfl)

theorem minv (md ma : Byte) : Statement (.minv md ma) :=
  of_fields _ ⟨0xFF, 0x00, 0x00, 0xFF, 0xFFFFFFFF⟩ rfl (by simp only [encodeFields, byte_and_zero]; rfl)

theorem enc : Statement .enc := of_fields _ ⟨0xFF, 0xFF, 0xFF, 0xFF, 0xFFFFFFFF⟩ rfl rfl

theorem dec : Statement .dec := of_fields _ ⟨0xFF, 0xFF, 0xFF, 0xFF, 0xFFFFFFFF⟩ rfl rfl

end Sys2Proof.Laws.OpcodeTable
end

