-- ==== Sys2Proof/Tests/Slice0.lean ====
section
/-! SUPPORT. The model's own tests: the smoke test of `WellFormed`, every command's decoding from a word the spec writes out, one step of
every command on a small state, and a witness for the hypotheses of every statement.

Expected results come from spec/: the rule's own example, or a vector T-... of 95_test_vectors.md, as each comment says. -/

-- One theorem after another: each `decide +kernel` waits for the kernel, and a waiting thread holds its stack.
set_option Elab.async false

namespace Sys2Proof.Tests

open Sys2Proof.Machine Sys2Proof.Claims

/-! ## WellFormed: rule R78, one ill-formed term for each check -/

theorem test_wellFormed_greg_destination : ¬ WellFormed (.gfldi 16 1) := by decide
theorem test_wellFormed_greg_first_source : ¬ WellFormed (.gfadd 1 16 2) := by decide
theorem test_wellFormed_greg_second_source : ¬ WellFormed (.gfmul 1 2 16) := by decide
theorem test_wellFormed_gfinv_source : ¬ WellFormed (.gfinv 1 255) := by decide
theorem test_wellFormed_gfrd : ¬ WellFormed (.gfrd 16) := by decide
theorem test_wellFormed_bytes : ¬ WellFormed (.ldb 16 0) ∧ ¬ WellFormed (.stb 16 0) := by decide
theorem test_wellFormed_bank_zero_destination :
    ¬ WellFormed (.mdim 0 1 1) ∧ ¬ WellFormed (.mwri 0 0 0 1) ∧ ¬ WellFormed (.mput 0 0 0 1)
      ∧ ¬ WellFormed (.mmul 0 1 2) ∧ ¬ WellFormed (.minv 0 1) := by decide
theorem test_wellFormed_bank_four :
    ¬ WellFormed (.mget 4 0 0 1) ∧ ¬ WellFormed (.mmul 1 4 2) ∧ ¬ WellFormed (.mmul 1 2 4) ∧ ¬ WellFormed (.minv 1 4) := by decide
theorem test_wellFormed_crr : ¬ WellFormed (.crr 9) := by decide
theorem test_wellFormed_crw : ¬ WellFormed (.crw 2 0) ∧ ¬ WellFormed (.crw 7 0) ∧ ¬ WellFormed (.crw 6 256) := by decide
theorem test_wellFormed_accepts :
    WellFormed (.gfldi 15 1) ∧ WellFormed (.mget 0 0 0 1) ∧ WellFormed (.crr 8) ∧ WellFormed (.crw 6 255)
      ∧ WellFormed (.mmul 3 0 3) := by decide

/-! ## Decoding: words of the spec -/

/-- R230. -/
theorem test_decode_nop : decode 0x0000000000000000 = .ok .nop := by decide
/-- R231. -/
theorem test_decode_srst : decode 0x0100000000000000 = .ok .srst := by decide
/-- T-CFG-1: CFG 2, 4. -/
theorem test_decode_cfg : decode 0x0200000000040002 = .ok (.cfg 2 4) := by decide
/-- R232: CRW DST, 0x10. -/
theorem test_decode_crw : decode 0x0304000000000010 = .ok (.crw 4 0x10) := by decide
/-- T-CFG-14: CRR CONFIG. -/
theorem test_decode_crr : decode 0x0402000000000000 = .ok (.crr 2) := by decide
/-- T-SYS-11: PIDXW 255, 7. -/
theorem test_decode_pidxw : decode 0x05FF070000000000 = .ok (.pidxw 255 7) := by decide
/-- T-SYS-12: PIDXR 255. -/
theorem test_decode_pidxr : decode 0x06FF000000000000 = .ok (.pidxr 255) := by decide
/-- R110: GFLDI g1, 0x57. -/
theorem test_decode_gfldi : decode 0x1001570000000000 = .ok (.gfldi 1 0x57) := by decide
/-- R111: GFADD g6, g1, g2. -/
theorem test_decode_gfadd : decode 0x1106010200000000 = .ok (.gfadd 6 1 2) := by decide
/-- R112: GFMUL g3, g1, g2. -/
theorem test_decode_gfmul : decode 0x1203010200000000 = .ok (.gfmul 3 1 2) := by decide
/-- R113: GFINV g4, g3. -/
theorem test_decode_gfinv : decode 0x1304030000000000 = .ok (.gfinv 4 3) := by decide
/-- R114: GFRD g8. -/
theorem test_decode_gfrd : decode 0x1408000000000000 = .ok (.gfrd 8) := by decide
/-- R115: LDB g8, [0x10]. -/
theorem test_decode_ldb : decode 0x1808000000000010 = .ok (.ldb 8 0x10) := by decide
/-- R116: STB g3, [0x10]. -/
theorem test_decode_stb : decode 0x1903000000000010 = .ok (.stb 3 0x10) := by decide
/-- P2 step 11: MDIM M3, 2, 3. -/
theorem test_decode_mdim : decode 0x2003020300000000 = .ok (.mdim 3 2 3) := by decide
/-- R136: MWRI M1[0][1], 2. -/
theorem test_decode_mwri : decode 0x2101000100000002 = .ok (.mwri 1 0 1 2) := by decide
/-- R137: MGET g1, M2[1][0]. -/
theorem test_decode_mget : decode 0x2202010000000001 = .ok (.mget 2 1 0 1) := by decide
/-- R138: MPUT M1[1][1], g3. -/
theorem test_decode_mput : decode 0x2301010100000003 = .ok (.mput 1 1 1 3) := by decide
/-- R139: MMUL M3, M1, M2. -/
theorem test_decode_mmul : decode 0x2403010200000000 = .ok (.mmul 3 1 2) := by decide
/-- R140: MINV M2, M1. -/
theorem test_decode_minv : decode 0x2502010000000000 = .ok (.minv 2 1) := by decide
/-- R184: ENC. -/
theorem test_decode_enc : decode 0x3000000000000000 = .ok .enc := by decide
/-- R210: DEC. -/
theorem test_decode_dec : decode 0x3100000000000000 = .ok .dec := by decide
/-- T-SYS-16, T-SYS-17: undefined opcodes. -/
theorem test_decode_undefined :
    decode 0x0700000000000000 = .error .undefinedOpcode ∧ decode 0xFF00000000000000 = .error .undefinedOpcode := by decide
/-- T-ALU-17, T-ALU-19, T-ALU-20, T-MEM-7, T-MAT-4, T-CFG-13, T-ENC-8, T-DEC-14, T-SYS-18: reserved fields not zero. -/
theorem test_decode_reserved :
    [0x1001570100000000, 0x1201020300000001, 0x1310110000000001, 0x1800010000000000, 0x2101000000000100, 0x0201000000040002,
      0x3000000000000001, 0x3100000100000000, 0x0001000000000000].all
      fun w => decode w == .error .reservedNotZero := by decide
/-- R72: no word is of two rows. -/
theorem test_opcodeTable_apart :
    opcodeTable.Pairwise fun r r' => r.pattern &&& r.mask &&& r'.mask ≠ r'.pattern &&& r.mask &&& r'.mask := by decide +kernel
/-- The table's numbering: GFMUL g3, g1, g2, and 32 bits that hold nothing of the opcode byte. -/
theorem test_decodeTableWord :
    decodeTableWord 64 0x1203010200000000 = some (.gfmul 3 1 2) ∧ decodeTableWord 64 0x0700000000000000 = none := by decide

/-! ## The field, matrices and the generator -/

/-- R108. -/
theorem test_gfMul :
    gfMul 0x57 0x83 = 0xC1 ∧ gfMul 0x57 0x13 = 0xFE ∧ gfMul 0x02 0x80 = 0x1B ∧ gfMul 0xFF 0xFF = 0x13 := by decide +kernel
/-- R103, R107: row 5 of the table of inverses, and no inverse of zero. -/
theorem test_gfInv_row :
    gfInv 0x00 = none ∧ (List.range 16).map (fun i => gfInv (BitVec.ofNat 8 (0x50 + i)))
      = [0xed, 0x5c, 0x05, 0xca, 0x4c, 0x24, 0x87, 0xbf, 0x18, 0x3e, 0x22, 0xf0, 0x51, 0xec, 0x61, 0x17].map some := by
  decide +kernel
/-- R108: powers of 0x02. -/
theorem test_gfPow : (List.range 9).map (gfPow 0x02) = [0x01, 0x02, 0x04, 0x08, 0x10, 0x20, 0x40, 0x80, 0x1b] := by decide +kernel
/-- R134: a 2 × 3 by 3 × 1 product. -/
theorem test_matMul :
    matMul ⟨2, 3, [[0x57, 0x83, 0x01], [0x02, 0x80, 0xff]]⟩ ⟨3, 1, [[0x83], [0x57], [0xaa]]⟩ = ⟨2, 1, [[0xaa], [0xce]]⟩ := by
  decide +kernel
/-- R134: a 3 × 3 inverse with a row swap. -/
theorem test_invert_swap :
    invert ⟨3, 3, [[0x00, 0x02, 0x01], [0x01, 0x00, 0x00], [0x05, 0x01, 0x07]]⟩
      = .ok ⟨3, 3, [[0x00, 0x01, 0x00], [0x63, 0xf6, 0xc7], [0xc7, 0xf7, 0x95]]⟩ := by decide +kernel
/-- R134: singular at columns 1 and 0. -/
theorem test_invert_singular :
    invert ⟨2, 2, [[0x01, 0x02], [0x02, 0x04]]⟩ = .singular 1 ∧ invert ⟨2, 2, [[0x00, 0x00], [0x00, 0x01]]⟩ = .singular 0 := by
  decide +kernel
/-- R162: Gen(3, 7). -/
theorem test_gen :
    gen 3 7 = ⟨7, 3, [[1, 0, 0], [0, 1, 0], [0, 0, 1], [0x07, 0x09, 0x0f], [0x07, 0x08, 0x0e], [0x06, 0x09, 0x0e],
      [0x06, 0x08, 0x0f]]⟩ := by decide +kernel

/-! ## One step of every command -/

/-- The reset state with 256 bytes of DMEM, as part 2 of 95_test_vectors.md starts from. -/
def base : State := State.powerOn 256 []

/-- A state with some scalar registers set. -/
def withG (regs : List (Fin 16 × Byte)) : State := regs.foldl (fun s p => s.setG p.1 p.2) base

/-- A state with some banks set. -/
def withBanks (banks : List (Fin 4 × MatrixVal)) : State := banks.foldl (fun s p => s.setBank p.1 p.2) base

/-- The next state, where a step answers one. -/
def nextOf : Res → Option State
  | .next t => some t
  | .fault _ => none
  | .refused _ => none

/-- The response and one observed value after a command word is presented. -/
def after {α : Type} (s : State) (w : Command) (observe : State → α) : Option (Response × α) :=
  (nextOf (step (s.presentNext w))).map fun t => (t.response, observe t)

/-- R110, R36: the first command the host presents after reset. -/
theorem test_first_step_after_reset :
    (nextOf (step (State.reset.withFetchWord 64 0x1001570000000000))).map (fun t => (t.response, t.g[1], t.ccnt, t.inputs))
      = some (0x0000000057, 0x57, 1, []) := by decide +kernel
/-- T-SYS-1. -/
theorem test_nop : after base 0x0000000000000000 State.ccnt = some (0x0000000000, 1) := by decide +kernel
/-- T-SYS-14: registers cleared, DMEM kept, the counter not incremented. -/
theorem test_srst :
    after { withG [(1, 0x57)] with dmem := [(3, 0xB5)], ccnt := 34 } 0x0100000000000000
      (fun t => (t.g[1], memRead t.dmem 3, t.ccnt)) = some (0x0000000000, 0x00, 0xB5, 0) := by decide +kernel
/-- T-SYS-15: SRST with a field set resets nothing and counts. -/
theorem test_srst_illegal : after (withG [(1, 0x57)]) 0x0100000000000001 (fun t => (t.g[1], t.ccnt)) = some (0x1000000000, 0x57, 1) := by
  decide +kernel
/-- T-CFG-1: CFG 2, 4. -/
theorem test_cfg :
    after base 0x0200000000040002 (fun t => (t.config, t.banks[0]))
      = some (0x0000000000, 0x00010402, ⟨4, 2, [[0x01, 0x00], [0x00, 0x01], [0xf6, 0xf7], [0x02, 0x03]]⟩) := by decide +kernel
/-- T-CFG-8 to T-CFG-11: the order of the parameter checks. -/
theorem test_cfg_refused :
    [0x0200000000040000, 0x0200000000020003, 0x0200000001000003, 0x0200000000C8012C].map (fun w => after base w State.cfgok)
      = [some (0x0100000001, false), some (0x0100000002, false), some (0x0100000003, false), some (0x0100000002, false)] := by
  decide +kernel
/-- T-SYS-7: CRW PCNT, 255. -/
theorem test_crw : after base 0x03060000000000FF State.pcnt = some (0x0000000000, 255) := by decide +kernel
/-- T-SYS-8, T-SYS-9: CRW PCNT, 256 and CRW ID, 1. -/
theorem test_crw_refused :
    after { base with pcnt := 3 } 0x0306000000000100 State.pcnt = some (0x1100000000, 3)
      ∧ after base 0x0300000000000001 State.ccnt = some (0x1100000000, 1) := by decide +kernel
/-- T-SYS-2, T-SYS-3, T-SYS-4: constants. -/
theorem test_crr_constants :
    [0x0400000000000000, 0x0401000000000000, 0x0408000000000000].map (fun w => after base w State.ccnt)
      = [some (0x0045433031, 1), some (0x000000011B, 1), some (0x0000000100, 1)] := by decide +kernel
/-- T-SYS-13, T-SYS-10: the counter before the command's own increment; no register 9. -/
theorem test_crr_ccnt :
    after { base with ccnt := 10 } 0x0407000000000000 State.ccnt = some (0x000000000A, 11)
      ∧ after base 0x0409000000000000 State.ccnt = some (0x1100000000, 1) := by decide +kernel
/-- T-SYS-11. -/
theorem test_pidxw : after base 0x05FF070000000000 (fun t => (t.pidx[255], t.pidx[7])) = some (0x0000000000, 7, 0) := by decide +kernel
/-- T-SYS-12. -/
theorem test_pidxr : after (base.setPidx 255 7) 0x06FF000000000000 State.ccnt = some (0x0000000007, 1) := by decide +kernel
/-- T-ALU-2. -/
theorem test_gfldi : after base 0x100FFF0000000000 (fun t => t.g[15]) = some (0x00000000FF, 0xFF) := by decide +kernel
/-- T-ALU-16: GFLDI g16. -/
theorem test_gfldi_refused : after base 0x1010010000000000 (fun t => t.g[0]) = some (0x1100000000, 0x00) := by decide +kernel
/-- T-ALU-3. -/
theorem test_gfadd :
    after (withG [(1, 0x57), (2, 0x83)]) 0x1106010200000000 (fun t => (t.g[6], t.g[1])) = some (0x00000000D4, 0xD4, 0x57) := by
  decide +kernel
/-- T-ALU-4: a source that is also the destination. -/
theorem test_gfadd_in_place : after (withG [(1, 0x57)]) 0x1101010100000000 (fun t => t.g[1]) = some (0x0000000000, 0x00) := by
  decide +kernel
/-- T-ALU-5. -/
theorem test_gfmul : after (withG [(1, 0x57), (2, 0x83)]) 0x1203010200000000 (fun t => t.g[3]) = some (0x00000000C1, 0xC1) := by
  decide +kernel
/-- T-ALU-8: in place. -/
theorem test_gfmul_in_place : after (withG [(1, 0xff)]) 0x1201010100000000 (fun t => t.g[1]) = some (0x0000000013, 0x13) := by
  decide +kernel
/-- T-ALU-11. -/
theorem test_gfinv : after (withG [(3, 0xc1)]) 0x1304030000000000 (fun t => t.g[4]) = some (0x0000000028, 0x28) := by decide +kernel
/-- T-ALU-14: DOMAIN_ERROR, the destination unchanged. -/
theorem test_gfinv_zero : after (withG [(7, 0x55)]) 0x1307000000000000 (fun t => t.g[7]) = some (0x0600000000, 0x55) := by
  decide +kernel
/-- T-ALU-15. -/
theorem test_gfrd : after (withG [(8, 0xc1)]) 0x1408000000000000 State.ccnt = some (0x00000000C1, 1) := by decide +kernel
/-- T-MEM-2, and T-MEM-3 with the last byte set. -/
theorem test_ldb :
    after { base with dmem := [(0x10, 0xc1)] } 0x1808000000000010 (fun t => t.g[8]) = some (0x00000000C1, 0xC1)
      ∧ after { base with dmem := [(0xFF, 0x7A)] } 0x18000000000000FF (fun t => t.g[0]) = some (0x000000007A, 0x7A) := by
  decide +kernel
/-- T-MEM-4, T-MEM-6: past the end, and no memory at all. -/
theorem test_ldb_refused :
    after base 0x1800000000000100 State.ccnt = some (0x1400000000, 1)
      ∧ after (State.powerOn 0 []) 0x1800000000000000 State.ccnt = some (0x1400000000, 1) := by decide +kernel
/-- T-MEM-1. -/
theorem test_stb :
    after { withG [(3, 0xc1)] with dmem := [(0x0F, 1), (0x11, 2)] } 0x1903000000000010 State.dmem
      = some (0x0000000000, [(0x0F, 1), (0x10, 0xc1), (0x11, 2)]) := by decide +kernel
/-- T-MEM-5, T-MEM-8: no wrap; BAD_OPERAND before BAD_RANGE. -/
theorem test_stb_refused :
    after base 0x19000000FFFFFFFF State.dmem = some (0x1400000000, [])
      ∧ after base 0x1910000000000100 State.dmem = some (0x1100000000, []) := by decide +kernel
/-- P2 step 11: MDIM M3, 2, 3. -/
theorem test_mdim : after base 0x2003020300000000 (fun t => t.banks[3]) = some (0x0000000000, ⟨2, 3, [[0, 0, 0], [0, 0, 0]]⟩) := by
  decide +kernel
/-- T-MAT-2. -/
theorem test_mwri :
    after (withBanks [(1, ⟨2, 2, [[0, 0], [0, 0]]⟩)]) 0x2101000100000002 (fun t => t.banks[1])
      = some (0x0000000000, ⟨2, 2, [[0, 2], [0, 0]]⟩) := by decide +kernel
/-- T-MAT-3, T-MAT-5: a row past the end; bank 0. -/
theorem test_mwri_refused :
    after (withBanks [(1, ⟨2, 2, [[0, 0], [0, 0]]⟩)]) 0x2101020000000001 (fun t => t.banks[1])
        = some (0x1200000000, ⟨2, 2, [[0, 0], [0, 0]]⟩)
      ∧ after base 0x2100000000000001 (fun t => t.banks[0]) = some (0x1100000000, ⟨0, 0, []⟩) := by decide +kernel
/-- T-MAT-6. -/
theorem test_mget :
    after (withBanks [(2, ⟨2, 2, [[0x02, 0x01], [0x8c, 0x8d]]⟩)]) 0x2202010000000001 (fun t => t.g[1]) = some (0x000000008C, 0x8C) := by
  decide +kernel
/-- T-MAT-7: a cell of an empty bank. -/
theorem test_mget_refused : after base 0x2202000000000001 (fun t => t.g[1]) = some (0x1200000000, 0x00) := by decide +kernel
/-- T-MAT-8. -/
theorem test_mput :
    after ((withBanks [(1, ⟨2, 2, [[1, 2], [3, 4]]⟩)]).setG 3 0xc1) 0x2301010100000003 (fun t => t.banks[1])
      = some (0x0000000000, ⟨2, 2, [[1, 2], [3, 0xc1]]⟩) := by decide +kernel
/-- T-MAT-10: all three banks the same. -/
theorem test_mmul_aliased :
    after (withBanks [(1, ⟨2, 2, [[1, 2], [3, 4]]⟩)]) 0x2401010100000000 (fun t => t.banks[1])
      = some (0x0000000000, ⟨2, 2, [[0x07, 0x0a], [0x0f, 0x16]]⟩) := by decide +kernel
/-- T-MAT-18, T-MAT-11: an inner dimension of zero; inner dimensions that differ. -/
theorem test_mmul_dimensions :
    after (withBanks [(1, ⟨2, 0, [[], []]⟩), (2, ⟨0, 3, []⟩)]) 0x2403010200000000 (fun t => t.banks[3])
        = some (0x0000000000, ⟨2, 3, [[0, 0, 0], [0, 0, 0]]⟩)
      ∧ after (withBanks [(1, matZero 2 3), (2, matZero 2 2)]) 0x2403010200000000 (fun t => t.banks[3])
        = some (0x1200000000, ⟨0, 0, []⟩) := by decide +kernel
/-- T-MAT-12. -/
theorem test_minv :
    after (withBanks [(1, ⟨2, 2, [[1, 2], [3, 4]]⟩)]) 0x2502010000000000 (fun t => t.banks[2])
      = some (0x0000000000, ⟨2, 2, [[0x02, 0x01], [0x8c, 0x8d]]⟩) := by decide +kernel
/-- T-MAT-13, T-MAT-16: singular at column 1, the destination unchanged; not square. -/
theorem test_minv_refused :
    after (withBanks [(1, ⟨2, 2, [[1, 2], [2, 4]]⟩), (2, ⟨1, 1, [[9]]⟩)]) 0x2502010000000000 (fun t => t.banks[2])
        = some (0x0400000001, ⟨1, 1, [[9]]⟩)
      ∧ after (withBanks [(1, matZero 2 3)]) 0x2502010000000000 (fun t => t.banks[2]) = some (0x1200000000, ⟨0, 0, []⟩) := by
  decide +kernel

/-- The state of T-ENC-1 and T-DEC-...: 64 bytes of DMEM, CFG 2, 4 done, blocks of two bytes. -/
def coded (src dst pcnt : Nat) (indices : List Byte) (mem : Memory) : State :=
  { (State.powerOn 64 mem).configure 2 4 with
    src := BitVec.ofNat 32 src, dst := BitVec.ofNat 32 dst, blen := 2, pcnt := BitVec.ofNat 8 pcnt
    pidx := (indices.zipIdx).foldl (fun p e => p.set! e.2 e.1) (Vector.replicate 256 0x00) }

/-- The source blocks of T-ENC-1. -/
def dataBlocks : Memory := [(0, 0x41), (1, 0x42), (2, 0x43), (3, 0x44)]

/-- T-ENC-1. -/
theorem test_enc :
    after (coded 0 0x10 0 [] dataBlocks) 0x3000000000000000 (fun t => memReadBytes t.dmem 0x10 8)
      = some (0x0000000000, [0x41, 0x42, 0x43, 0x44, 0xb4, 0x46, 0x47, 0x48]) := by decide +kernel
/-- T-ENC-3, T-ENC-4, T-ENC-5, T-ENC-2: overlap, past the end, exactly fits, not configured. -/
theorem test_enc_regions :
    [coded 0 0x02 0 [] dataBlocks, coded 0 0x3A 0 [] dataBlocks, coded 0 0x38 0 [] dataBlocks, base].map
        (fun s => after s 0x3000000000000000 fun t => memRead t.dmem 0x3f)
      = [some (0x1400000000, 0), some (0x1400000000, 0), some (0x0000000000, 0x48), some (0x1300000000, 0)] := by decide +kernel
/-- T-DEC-1. -/
theorem test_dec :
    after (coded 0x20 0x30 3 [3, 1, 2] [(0x20, 0x47), (0x21, 0x48), (0x22, 0x43), (0x23, 0x44), (0x24, 0xb4), (0x25, 0x46)])
        0x3100000000000000 (fun t => (t.banks[1], t.banks[2], memReadBytes t.dmem 0x30 4))
      = some (0x0000000000, ⟨2, 2, [[0x00, 0x01], [0xf6, 0xf7]]⟩, ⟨2, 2, [[0x02, 0x03], [0x01, 0x00]]⟩,
          [0x41, 0x42, 0x43, 0x44]) := by decide +kernel
/-- T-DEC-4, T-DEC-6, T-DEC-7, T-DEC-9, T-DEC-10, T-DEC-11, T-DEC-13. -/
theorem test_dec_refused :
    [coded 0x20 0x30 1 [3, 2] [], coded 0x20 0x30 2 [3, 3] [], coded 0x20 0x30 2 [3, 4] [], coded 0x20 0x30 1 [4] [],
      coded 0x20 0x21 2 [3, 2] [], coded 0x20 0x3D 2 [3, 2] [], base].map (fun s => after s 0x3100000000000000 State.dmem)
      = [some (0x0200000001, []), some (0x0300000001, []), some (0x0300000001, []), some (0x0300000000, []),
          some (0x1400000000, []), some (0x1400000000, []), some (0x1300000000, [])] := by decide +kernel

/-! ## The host -/

/-- R298: an idle core. -/
theorem test_idle : step base = .next base := rfl
/-- T-SYS-16: an undefined opcode. -/
theorem test_illegal : after base 0x0700000000000000 State.ccnt = some (0x1000000000, 1) := by decide +kernel
/-- P3: the host writes shards between commands (R64). -/
theorem test_host_write :
    (nextOf (step { base with inputs := [.dmemWrite [(0x20, 0x47), (0x21, 0x48), (0x20, 0x43)]] })).map
      (fun t => (t.dmem, t.ccnt, t.inputs)) = some ([(0x20, 0x43), (0x21, 0x48)], 0, []) := by decide +kernel
/-- R310: the reset input keeps DMEM and clears the counter. -/
theorem test_reset_input :
    (nextOf (step { withG [(1, 0x57)] with ccnt := 7, dmem := [(1, 2)], inputs := [.reset, .command 0] })).map
      (fun t => (t.g[1], t.ccnt, t.dmem, t.inputs)) = some (0x00, 0, [(1, 2)], [.command 0]) := by decide +kernel
/-- R311: a reset during STB g3, [0x10] keeps the byte beside its address, whatever the byte at its address holds. -/
theorem test_reset_during :
    (nextOf (step { withG [(3, 0xc1)] with dmem := [(0x11, 2)], inputs := [.resetDuring 0x1903000000000010] })).map
      (fun t => (t.g[3], memRead t.dmem 0x11, t.fresh)) = some (0x00, 2, 1) := by
  have h : interruptedWrites 0x1903000000000010 { withG [(3, 0xc1)] with dmem := [(0x11, 2)] } = [0x10] := by decide +kernel
  simp only [step, runInput, runResetDuring, nextOf, Option.map_some]
  erw [h]
  simp [memWriteCells, memRead_memWrite, memRead, base, withG, State.powerOn]
/-- T-HOST-1. -/
theorem test_host_sizes :
    [(565, 3), (59, 4), (5, 4), (4, 2), (0, 2), (1, 255), (255, 255)].map (fun p => (hostBlockSize p.1 p.2, hostPadding p.1 p.2))
      = [(189, 2), (15, 1), (2, 3), (2, 0), (0, 0), (1, 254), (1, 0)] := by decide
/-- T-HOST-3: the padded buffer. -/
theorem test_host_padded : hostPadded [0x10, 0x20, 0x30, 0x40, 0x50] 4 = [0x10, 0x20, 0x30, 0x40, 0x50, 0x00, 0x00, 0x00] := by decide
/-- T-HOST-3: the shards Encode returns for CFG 4, 6. -/
theorem test_host_encode :
    (match hostEncode (State.powerOn 64 []) [0x10, 0x20, 0x30, 0x40, 0x50] 4 6 0 16 with
      | .ok r => r.shards
      | .error _ => []) = [[0x10, 0x20], [0x30, 0x40], [0x50, 0x00], [0x00, 0x00], [0x5e, 0x6e], [0x02, 0x52]] := by decide +kernel

end Sys2Proof.Tests
end

