-- ==== Sys2Proof/Tests/Witnesses.lean ====
section
/-! SUPPORT. For every statement that has hypotheses, a concrete state and operands that meet all of them together; for a statement with
several clauses, one for each clause, at the edge of its range. `witness_<Statement>` belongs to `Obligations.<Statement>`. -/

set_option Elab.async false

namespace Sys2Proof.Tests

open Sys2Proof.Machine Sys2Proof.Claims

theorem eq_of_nextOf {r : Res} {t : State} (h : nextOf r = some t) : r = .next t := by
  cases r <;> simp_all [nextOf]

/-! ## Encoding, step and execution cycle -/

theorem witness_EncodeOfDecode : decode 0x1203010200000000 = .ok (.gfmul 3 1 2) := by decide

theorem witness_DecodeFollowsOpcodeTable :
    decode 0x2101000100000002 = .ok (.mwri 1 0 1 2) ∧ opcodeRow (.mwri 0 0 0 0) ∈ opcodeTable
      ∧ (0x2101000100000002 : Command) &&& (opcodeRow (.mwri 0 0 0 0)).mask = (opcodeRow (.mwri 0 0 0 0)).pattern := by decide

theorem witness_StepRunsDecodedCommand :
    (base.presentNext 0x0600000000000000).inputs = .command 0x0600000000000000 :: [] ∧ decode 0x0600000000000000 = .ok (.pidxr 0) := by
  decide

theorem witness_IllegalCommandExactlyForOtherWords :
    (∀ row ∈ opcodeTable, (0x0700000000000000 : Command) &&& row.mask ≠ row.pattern)
      ∧ (∃ row ∈ opcodeTable, (0x3100000000000000 : Command) &&& row.mask = row.pattern)
      ∧ ∃ t, step (base.presentNext 0x3100000000000000) = .next t := by
  refine ⟨by decide +kernel, by decide +kernel, _, rfl⟩

theorem witness_IdleCoreKeepsState : base.inputs = [] := rfl

theorem witness_BadOperandExactlyWhenRefused :
    ¬ WellFormed (.gfldi 16 1) ∧ WellFormed (.gfldi 15 1) ∧ ∃ t, exec (.gfldi 15 1) base = .next t := ⟨by decide, by decide, _, rfl⟩

theorem witness_FailureIsAtomic :
    (exec (.gfinv 7 0) base = .next (failed base .domainError 0) ∧ (failed base .domainError 0).status ≠ .ok)
      ∧ step (base.presentNext 0x0001000000000000) = .next (failed base .illegalCommand 0)
      ∧ (failed base .illegalCommand 0).status ≠ .ok :=
  ⟨⟨eq_of_nextOf (by decide +kernel), by decide⟩, rfl, by decide⟩

theorem witness_EveryCommandIsCounted :
    (∃ t, step (base.presentNext 0x0100000000000000) = .next t) ∧ ∃ t, step (base.presentNext 0x0000000000000000) = .next t :=
  ⟨⟨_, rfl⟩, _, rfl⟩

theorem witness_StatusesOfEachCommand :
    exec (.gfldi 16 1) base = .next (failed base .badOperand 0) ∧ (failed base .badOperand 0).status ∉ statusesWithInfo :=
  ⟨eq_of_nextOf (by decide +kernel), by decide⟩

/-- For each opcode, fields that are illegal (the statements `IllegalUnless`). -/
theorem witness_IllegalUnless :
    ¬ ((0 : Byte) = 0 ∧ (0 : Byte) = 0 ∧ (0 : Byte) = 0 ∧ (1 : Word32) = 0) ∧ ¬ ((0 : Byte) = 0 ∧ (0 : Byte) = 0 ∧ (1 : Byte) = 0)
      ∧ ¬ ((0 : Byte) = 0 ∧ (1 : Byte) = 0) ∧ ¬ ((0 : Byte) = 0 ∧ (0 : Byte) = 0 ∧ (1 : Word32) = 0)
      ∧ ¬ ((0 : Byte) = 0 ∧ (1 : Word32) = 0) ∧ ¬ ((1 : Word32) = 0) ∧ ¬ ((256 : Word32).toNat < 256) ∧ ¬ ((16 : Word32).toNat < 16) := by
  decide

/-! ## Reset and the host -/

/-- A state with one host action to come. -/
def withInput (input : HostInput) : State := { base with inputs := [input] }

theorem witness_ResetGivesResetState : (withInput .reset).inputs = .reset :: [] := rfl

theorem witness_ResetDuringCommand :
    (withInput (.resetDuring 0x1903000000000010)).inputs = .resetDuring 0x1903000000000010 :: []
      ∧ decode 0x1903000000000010 = .ok (.stb 3 0x10) ∧ (0x11 : Nat) ≠ (0x10 : Word32).toNat
      ∧ OutsideDestination (coded 0 0x10 2 [0, 1] []) 4 0x0F ∧ OutsideDestination (coded 0 0x10 2 [0, 1] []) 4 0x18
      ∧ OutsideDestination (coded 0 0x10 2 [0, 1] []) 2 0x14 := by
  refine ⟨rfl, by decide, by decide, ?_, ?_, ?_⟩ <;> unfold OutsideDestination <;> decide +kernel

theorem witness_HostWritesDmem :
    (withInput (.dmemWrite [(255, 1), (0, 2)])).inputs = .dmemWrite [(255, 1), (0, 2)] :: []
      ∧ (∀ c ∈ [((255, 1) : Host.Cell), (0, 2)], c.1 < base.dmemBytes.toNat)
      ∧ ∃ c ∈ [((256, 1) : Host.Cell)], base.dmemBytes.toNat ≤ c.1 := ⟨rfl, by decide, by decide⟩

/-! ## Commands on registers and bytes -/

theorem witness_CrwRule :
    (255 : Word32).toNat ≤ 255 ∧ 255 < (256 : Word32).toNat ∧ ((2 : Byte).toNat < 3 ∨ 6 < (2 : Byte).toNat)
      ∧ ((7 : Byte).toNat < 3 ∨ 6 < (7 : Byte).toNat) := by decide

theorem witness_CrrRule : 8 < (9 : Byte).toNat := by decide

theorem witness_GfldiRule : 15 < (16 : Byte).toNat := by decide

theorem witness_GfaddRule :
    (15 < (16 : Byte).toNat ∨ 15 < (0 : Byte).toNat ∨ 15 < (0 : Byte).toNat)
      ∧ (15 < (0 : Byte).toNat ∨ 15 < (0 : Byte).toNat ∨ 15 < (16 : Byte).toNat) := by decide

theorem witness_GfmulRule : 15 < (0 : Byte).toNat ∨ 15 < (16 : Byte).toNat ∨ 15 < (0 : Byte).toNat := by decide

theorem witness_GfinvRule :
    (15 < (0 : Byte).toNat ∨ 15 < (16 : Byte).toNat) ∧ base.g[(0 : Fin 16)] = 0x00 ∧ (withG [(3, 0xc1)]).g[(3 : Fin 16)] ≠ 0x00 := by
  decide +kernel

theorem witness_GfrdRule : 15 < (16 : Byte).toNat := by decide

theorem witness_LdbRule :
    15 < (16 : Byte).toNat ∧ base.dmemBytes.toNat ≤ (256 : Word32).toNat ∧ (255 : Word32).toNat < base.dmemBytes.toNat := by decide

theorem witness_StbRule :
    15 < (16 : Byte).toNat ∧ base.dmemBytes.toNat ≤ (256 : Word32).toNat ∧ (255 : Word32).toNat < base.dmemBytes.toNat
      ∧ (254 : Nat) ≠ (255 : Word32).toNat := by decide

/-! ## Matrix engine and functions -/

/-- `M[1] = 01 02 / 03 04` and `M[2] = 01 02 / 02 04`, the second not invertible. -/
def matrices : State := withBanks [(1, ⟨2, 2, [[1, 2], [3, 4]]⟩), (2, ⟨2, 2, [[1, 2], [2, 4]]⟩), (3, ⟨3, 2, [[1, 2], [2, 4], [5, 6]]⟩)]

theorem witness_MdimRule : ((0 : Byte) = 0 ∨ 3 < (0 : Byte).toNat) ∧ 3 < (4 : Byte).toNat ∧ (3 : Fin 4) ≠ 0 := by decide

theorem witness_MwriRule :
    3 < (4 : Byte).toNat ∧ (1 : Fin 4) ≠ 0
      ∧ (matrices.banks[(1 : Fin 4)].rows ≤ (2 : Byte).toNat ∨ matrices.banks[(1 : Fin 4)].cols ≤ (0 : Byte).toNat)
      ∧ matrices.banks[(1 : Fin 4)].wf = true ∧ (1 : Byte).toNat < matrices.banks[(1 : Fin 4)].rows
      ∧ (1 : Byte).toNat < matrices.banks[(1 : Fin 4)].cols := by decide +kernel

theorem witness_MgetRule :
    3 < (4 : Byte).toNat ∧ (base.banks[(0 : Fin 4)].rows ≤ (0 : Byte).toNat ∨ base.banks[(0 : Fin 4)].cols ≤ (0 : Byte).toNat)
      ∧ (2 : Byte).toNat < matrices.banks[(3 : Fin 4)].rows ∧ (1 : Byte).toNat < matrices.banks[(3 : Fin 4)].cols := by decide +kernel

theorem witness_MputRule :
    3 < (4 : Byte).toNat ∧ (3 : Fin 4) ≠ 0
      ∧ (matrices.banks[(3 : Fin 4)].rows ≤ (0 : Byte).toNat ∨ matrices.banks[(3 : Fin 4)].cols ≤ (2 : Byte).toNat)
      ∧ matrices.banks[(3 : Fin 4)].wf = true ∧ (2 : Byte).toNat < matrices.banks[(3 : Fin 4)].rows
      ∧ (1 : Byte).toNat < matrices.banks[(3 : Fin 4)].cols := by decide +kernel

theorem witness_MmulRule :
    3 < (4 : Byte).toNat ∧ (1 : Fin 4) ≠ 0 ∧ matrices.banks[(1 : Fin 4)].cols ≠ matrices.banks[(3 : Fin 4)].rows
      ∧ matrices.banks[(3 : Fin 4)].cols = matrices.banks[(1 : Fin 4)].rows
      ∧ matrices.banks[(3 : Fin 4)].wf = true ∧ matrices.banks[(1 : Fin 4)].wf = true := by decide +kernel

theorem witness_MinvRule :
    3 < (4 : Byte).toNat ∧ (3 : Fin 4) ≠ 0 ∧ matrices.banks[(3 : Fin 4)].rows ≠ matrices.banks[(3 : Fin 4)].cols
      ∧ matrices.banks[(2 : Fin 4)].rows = matrices.banks[(2 : Fin 4)].cols ∧ invert matrices.banks[(2 : Fin 4)] = .singular 1
      ∧ matrices.banks[(1 : Fin 4)].rows = matrices.banks[(1 : Fin 4)].cols
      ∧ invert matrices.banks[(1 : Fin 4)] = .ok ⟨2, 2, [[0x02, 0x01], [0x8c, 0x8d]]⟩ := by decide +kernel

theorem witness_InvertGivesTheInverse :
    (⟨2, 2, [[1, 2], [3, 4]]⟩ : MatrixVal).wf = true
      ∧ invert ⟨2, 2, [[1, 2], [3, 4]]⟩ = .ok ⟨2, 2, [[0x02, 0x01], [0x8c, 0x8d]]⟩
      ∧ (⟨2, 2, [[0x02, 0x01], [0x8c, 0x8d]]⟩ : MatrixVal).wf = true
      ∧ matMul ⟨2, 2, [[1, 2], [3, 4]]⟩ ⟨2, 2, [[0x02, 0x01], [0x8c, 0x8d]]⟩ = matIdentity 2 := by decide +kernel

theorem witness_InvertReportsDependentColumn :
    (⟨2, 2, [[1, 2], [2, 4]]⟩ : MatrixVal).wf = true ∧ invert ⟨2, 2, [[1, 2], [2, 4]]⟩ = .singular 1
      ∧ (matIdentity 2).wf = true ∧ (matIdentity 2).rows = 2 := by decide +kernel

theorem witness_BytesFormAField : (0x02 : Byte) ≠ 0x00 := by decide

theorem witness_GfInvIsUniqueInverse : (0x01 : Byte) ≠ 0x00 ∧ gfMul 0x01 0x01 = 0x01 := by decide +kernel

theorem witness_CfgRule :
    (0 : BitVec 16).toNat = 0
      ∧ (0 < (1 : BitVec 16).toNat ∧ (0 : BitVec 16).toNat < (1 : BitVec 16).toNat)
      ∧ (0 < (1 : BitVec 16).toNat ∧ (1 : BitVec 16).toNat ≤ (256 : BitVec 16).toNat ∧ 255 < (256 : BitVec 16).toNat)
      ∧ (0 < (255 : BitVec 16).toNat ∧ (255 : BitVec 16).toNat ≤ (255 : BitVec 16).toNat ∧ (255 : BitVec 16).toNat ≤ 255) := by decide

theorem witness_VandermondeTopIsInvertible : (1 ≤ 1 ∧ 1 ≤ 255) ∧ (1 ≤ 255 ∧ 255 ≤ 255) := by decide

theorem witness_GeneratorIsSystematic :
    (1 ≤ 255 ∧ 255 ≤ 255 ∧ 254 < 255 ∧ 0 < 255) ∧ (1 ≤ 2 ∧ 2 ≤ 255 ∧ 254 < 255 ∧ 1 < 2) := by decide

theorem witness_AnyRowsOfGeneratorInvertible :
    1 ≤ 2 ∧ 2 ≤ 4 ∧ 4 ≤ 255 ∧ (∀ t < 2, (fun t => 3 - t) t < 4)
      ∧ ∀ t u, t < 2 → u < 2 → (fun t => 3 - t) t = (fun t => 3 - t) u → t = u := by
  refine ⟨by decide, by decide, by decide, by decide, fun t u ht hu h => ?_⟩
  simp only at h
  omega

/-! ## Encoder and decoder -/

/-- The shards 3 and 2 presented to DEC (T-DEC-2). -/
def presented32 : State :=
  coded 0x20 0x30 2 [3, 2] [(0x20, 0x47), (0x21, 0x48), (0x22, 0xb4), (0x23, 0x46)]

/-- The shards 1 and 0 presented to DEC, in that slot order. -/
def presented10 : State :=
  coded 0x20 0x30 2 [1, 0] [(0x20, 0x43), (0x21, 0x44), (0x22, 0x41), (0x23, 0x42)]

/-- The data blocks of T-ENC-1, by block and offset. -/
def dataByte (t j : Nat) : Byte := memRead dataBlocks (2 * t + j)

theorem coded_configWf (src dst pcnt : Nat) (indices : List Byte) (mem : Memory) : (coded src dst pcnt indices mem).configWf := by
  unfold State.configWf
  have hok : (coded src dst pcnt indices mem).cfgok = true := rfl
  have hk : (coded src dst pcnt indices mem).k.toNat = 2 := rfl
  have hn : (coded src dst pcnt indices mem).n.toNat = 4 := rfl
  rw [if_pos hok, hk, hn]
  exact ⟨by decide, by decide, rfl⟩

theorem coded_inv (src dst pcnt : Nat) (indices : List Byte) (mem : Memory) (h : mem.wf = true) (h' : ∀ e ∈ mem, e.1 < 64) :
    (coded src dst pcnt indices mem).Inv := by
  refine ⟨fun b => ?_, coded_configWf _ _ _ _ _, h, h'⟩
  have hb : (coded src dst pcnt indices mem).banks = (Vector.replicate 4 ⟨0, 0, []⟩).set 0 (gen 2 4) := rfl
  rw [hb]
  rcases Nat.eq_zero_or_pos b.val with h0 | h0
  · have : b = 0 := Fin.ext h0
    subst this
    exact wf_gen (k := 2) (n := 4) (by decide) (by decide)
  · have : ((Vector.replicate 4 (⟨0, 0, []⟩ : MatrixVal)).set 0 (gen 2 4))[b] = ⟨0, 0, []⟩ := by
      simp [Vector.getElem_set]; omega
    rw [this]
    rfl

theorem presented32_inv : presented32.Inv := coded_inv _ _ _ _ _ (by decide) (by decide)

theorem presented10_inv : presented10.Inv := coded_inv _ _ _ _ _ (by decide) (by decide)

theorem indicesOk_of_two {s : State} (hp : s.pcnt = 2) (hk : s.k = 2) (h0 : index s 0 < s.n.toNat) (h1 : index s 1 < s.n.toNat)
    (h01 : index s 0 ≠ index s 1) : IndicesOk s := by
  have hp' : s.pcnt.toNat = 2 := by rw [hp]; rfl
  refine ⟨fun t ht hbad => ?_, by rw [hp', hk]; decide⟩
  rw [hp'] at ht
  rcases hbad with h | ⟨u, hu, h⟩
  · interval_cases t <;> omega
  · interval_cases t
    · omega
    · interval_cases u; exact h01 h

theorem witness_EncRule :
    base.cfgok = false
      ∧ ((coded 0 0x02 0 [] dataBlocks).cfgok = true ∧ ¬ RegionsOk (coded 0 0x02 0 [] dataBlocks) 2 4)
      ∧ ((coded 0 0x3A 0 [] dataBlocks).cfgok = true ∧ ¬ RegionsOk (coded 0 0x3A 0 [] dataBlocks) 2 4)
      ∧ ((coded 0 0x38 0 [] dataBlocks).cfgok = true ∧ (coded 0 0x38 0 [] dataBlocks).configWf
          ∧ RegionsOk (coded 0 0x38 0 [] dataBlocks) 2 4 ∧ OutsideDestination (coded 0 0x38 0 [] dataBlocks) 4 0x37
          ∧ OutsideDestination (coded 0 0x38 0 [] dataBlocks) 4 0x40) := by
  refine ⟨rfl, ⟨rfl, ?_⟩, ⟨rfl, ?_⟩, rfl, coded_configWf _ _ _ _ _, ?_, ?_, ?_⟩ <;>
    first | unfold RegionsOk; decide +kernel | unfold OutsideDestination; decide +kernel

theorem enc_answers : ∃ t, exec .enc (coded 0 0x10 0 [] dataBlocks) = .next t ∧ t.status = .ok := by
  have hok : (coded 0 0x10 0 [] dataBlocks).cfgok = true := rfl
  have hr : (coded 0 0x10 0 [] dataBlocks).regionsOk (coded 0 0x10 0 [] dataBlocks).k.toNat (coded 0 0x10 0 [] dataBlocks).n.toNat
      = true := by decide +kernel
  refine ⟨((coded 0 0x10 0 [] dataBlocks).writeDestination (coded 0 0x10 0 [] dataBlocks).encodedBlocks
    (coded 0 0x10 0 [] dataBlocks).n.toNat).respond .ok 0, ?_, rfl⟩
  simp only [exec, execEnc, hok, hr, if_true, complete]

theorem witness_EncIsSystematic :
    (coded 0 0x10 0 [] dataBlocks).configWf ∧ (∃ t, exec .enc (coded 0 0x10 0 [] dataBlocks) = .next t ∧ t.status = .ok)
      ∧ 1 < (coded 0 0x10 0 [] dataBlocks).k.toNat ∧ 1 < (coded 0 0x10 0 [] dataBlocks).blen.toNat :=
  ⟨coded_configWf _ _ _ _ _, enc_answers, by decide +kernel, by decide +kernel⟩

theorem witness_EncIsDeterministic :
    (coded 0 0x10 0 [] dataBlocks).configWf ∧ (∃ t, exec .enc (coded 0 0x10 0 [] dataBlocks) = .next t ∧ t.status = .ok)
      ∧ ∀ b j, b < 2 → j < 2 → sourceByte (coded 0 0x10 0 [] dataBlocks) b j = sourceByte (coded 0 0x10 0 [] dataBlocks) b j :=
  ⟨coded_configWf _ _ _ _ _, enc_answers, fun _ _ _ _ => rfl⟩

theorem presented32_selected : Selected presented32 (fun t => t + 2) (fun t => 1 - t) := by
  have hk : presented32.k.toNat = 2 := rfl
  have hp : presented32.pcnt.toNat = 2 := by decide +kernel
  refine ⟨fun t u h _ => by simpa using h, fun t ht => ?_, fun p hp' => ?_⟩
  · rw [hk] at ht
    interval_cases t <;> exact ⟨by decide +kernel, by decide +kernel⟩
  · rw [hp] at hp'
    rw [hk]
    left
    interval_cases p
    · exact ⟨1, by decide, by decide +kernel⟩
    · exact ⟨0, by decide, by decide +kernel⟩

theorem presented10_selected : Selected presented10 id (fun t => 1 - t) := by
  have hk : presented10.k.toNat = 2 := rfl
  have hp : presented10.pcnt.toNat = 2 := by decide +kernel
  refine ⟨fun t u h _ => by simpa using h, fun t ht => ?_, fun p hp' => ?_⟩
  · rw [hk] at ht
    interval_cases t <;> exact ⟨by decide +kernel, by decide +kernel⟩
  · rw [hp] at hp'
    rw [hk]
    left
    interval_cases p
    · exact ⟨1, by decide, by decide +kernel⟩
    · exact ⟨0, by decide, by decide +kernel⟩

theorem presented32_indicesOk : IndicesOk presented32 :=
  indicesOk_of_two (by decide +kernel) (by decide +kernel) (by decide +kernel) (by decide +kernel) (by decide +kernel)

theorem presented10_indicesOk : IndicesOk presented10 :=
  indicesOk_of_two (by decide +kernel) (by decide +kernel) (by decide +kernel) (by decide +kernel) (by decide +kernel)

theorem presented32_regionsOk : RegionsOk presented32 presented32.pcnt.toNat presented32.k.toNat := by
  unfold RegionsOk; decide +kernel

theorem presented10_regionsOk : RegionsOk presented10 presented10.pcnt.toNat presented10.k.toNat := by
  unfold RegionsOk; decide +kernel

theorem witness_DecRefusals :
    base.cfgok = false
      ∧ ((coded 0x20 0x30 2 [3, 3] []).cfgok = true ∧ 1 < (coded 0x20 0x30 2 [3, 3] []).pcnt.toNat
          ∧ BadSlot (coded 0x20 0x30 2 [3, 3] []) 1 ∧ ∀ u < 1, ¬ BadSlot (coded 0x20 0x30 2 [3, 3] []) u)
      ∧ ((coded 0x20 0x30 1 [3] []).cfgok = true ∧ (∀ t < 1, ¬ BadSlot (coded 0x20 0x30 1 [3] []) t)
          ∧ (coded 0x20 0x30 1 [3] []).pcnt.toNat < (coded 0x20 0x30 1 [3] []).k.toNat)
      ∧ (IndicesOk (coded 0x20 0x21 2 [3, 2] []) ∧ ¬ RegionsOk (coded 0x20 0x21 2 [3, 2] []) 2 2) := by
  refine ⟨rfl, ⟨rfl, by decide +kernel, ?_, ?_⟩, ⟨rfl, ?_, by decide +kernel⟩, ?_, ?_⟩
  · exact .inr ⟨0, by decide, by decide +kernel⟩
  · intro u hu hbad
    interval_cases u
    rcases hbad with h | ⟨u, hu, -⟩
    · exact absurd h (by decide +kernel)
    · omega
  · intro u hu hbad
    interval_cases u
    rcases hbad with h | ⟨u, hu, -⟩
    · exact absurd h (by decide +kernel)
    · omega
  · exact indicesOk_of_two (by decide +kernel) (by decide +kernel) (by decide +kernel) (by decide +kernel) (by decide +kernel)
  · unfold RegionsOk; decide +kernel

/-- The last clause of `DecRefusals`, which only states that no run reaches can meet (rule R207): `M[0]` is not `Gen(K, N)` there. -/
theorem witness_DecRefusals_singular :
    let s := presented32.setBank 0 (matZero 4 2)
    s.cfgok = true ∧ IndicesOk s ∧ RegionsOk s s.pcnt.toNat s.k.toNat ∧ Selected s (fun t => t + 2) (fun t => 1 - t)
      ∧ invert (matBuild s.k.toNat s.k.toNat fun t c => s.banks[0].cell (t + 2) c) = .singular 0 :=
  ⟨rfl, presented32_indicesOk, presented32_regionsOk, presented32_selected, by decide +kernel⟩

theorem witness_DecRecoveryRule :
    presented32.cfgok = true ∧ IndicesOk presented32 ∧ RegionsOk presented32 presented32.pcnt.toNat presented32.k.toNat
      ∧ Selected presented32 (fun t => t + 2) (fun t => 1 - t)
      ∧ invert (matBuild presented32.k.toNat presented32.k.toNat fun t c => presented32.banks[0].cell (t + 2) c)
          = .ok ⟨2, 2, [[0xb8, 0xb9], [0xd0, 0xd1]]⟩ :=
  ⟨rfl, presented32_indicesOk, presented32_regionsOk, presented32_selected, by decide +kernel⟩

theorem witness_DecIsNeverSingular :
    presented32.Inv ∧ presented32.cfgok = true ∧ IndicesOk presented32
      ∧ RegionsOk presented32 presented32.pcnt.toNat presented32.k.toNat :=
  ⟨presented32_inv, rfl, presented32_indicesOk, presented32_regionsOk⟩

theorem witness_DecOfSystematicShards :
    presented10.Inv ∧ presented10.cfgok = true ∧ IndicesOk presented10
      ∧ RegionsOk presented10 presented10.pcnt.toNat presented10.k.toNat ∧ Selected presented10 id (fun t => 1 - t) :=
  ⟨presented10_inv, rfl, presented10_indicesOk, presented10_regionsOk, presented10_selected⟩

theorem witness_DecRecoversTheData :
    presented32.Inv ∧ presented32.cfgok = true ∧ IndicesOk presented32
      ∧ RegionsOk presented32 presented32.pcnt.toNat presented32.k.toNat
      ∧ ∀ p j, p < presented32.pcnt.toNat → j < presented32.blen.toNat →
          sourceByte presented32 p j = xorSum presented32.k.toNat fun t =>
            gfMul ((gen presented32.k.toNat presented32.n.toNat).cell (index presented32 p) t) (dataByte t j) := by
  refine ⟨presented32_inv, rfl, presented32_indicesOk, presented32_regionsOk, fun p j hp hj => ?_⟩
  have hp' : p < 2 := hp
  have hj' : j < 2 := hj
  interval_cases p <;> interval_cases j <;> decide +kernel

/-! ## Frames and the invariant -/

theorem witness_OnlyFourCommandsReachDmem :
    (∀ gd addr, Instr.nop ≠ .ldb gd addr) ∧ (∀ ga addr, Instr.nop ≠ .stb ga addr) ∧ Instr.nop ≠ .enc ∧ Instr.nop ≠ .dec := by
  refine ⟨fun _ _ => by simp, fun _ _ => by simp, by simp, by simp⟩

theorem witness_StoresStayInTheirBytes :
    (∃ t, exec (.stb 0 255) base = .next t) ∧ (∃ t, exec .enc (coded 0 0x10 0 [] dataBlocks) = .next t) ∧ (∃ t, exec .dec base = .next t)
      ∧ ∃ t, exec (.ldb 0 255) base = .next t :=
  ⟨⟨_, rfl⟩, enc_answers.imp fun _ h => h.1, ⟨_, rfl⟩, _, rfl⟩

theorem witness_ScalarRegisterFrame :
    (∃ t, exec (.gfldi 15 1) base = .next t) ∧ Instr.gfldi 15 1 ≠ .srst ∧ scalarDestination (.gfldi 15 1) ≠ some (14 : Fin 16).val :=
  ⟨⟨_, rfl⟩, by simp, by decide⟩

theorem witness_BankAndConfigFrame :
    (∃ t, exec (.mdim 3 1 1) base = .next t) ∧ Instr.mdim 3 1 1 ≠ .srst ∧ (2 : Fin 4).val ∉ bankDestinations (.mdim 3 1 1)
      ∧ ∀ k n, Instr.mdim 3 1 1 ≠ .cfg k n :=
  ⟨⟨_, rfl⟩, by simp, by decide, by simp⟩

theorem witness_ControlRegisterFrame :
    (∃ t, exec (.crw 3 1) base = .next t) ∧ Instr.crw 3 1 ≠ .srst ∧ (∀ v, Instr.crw 3 1 ≠ .crw 4 v) ∧ (∀ v, Instr.crw 3 1 ≠ .crw 5 v)
      ∧ (∀ v, Instr.crw 3 1 ≠ .crw 6 v) ∧ (∀ v, Instr.crw 4 1 ≠ .crw 3 v)
      ∧ ∀ index, Instr.crw 3 1 ≠ .pidxw (BitVec.ofNat 8 (255 : Fin 256).val) index :=
  ⟨⟨_, rfl⟩, by simp, by simp, by simp, by simp, by simp, by simp⟩

theorem witness_StepKeepsInvariant : (presented32.presentNext 0x0000000000000000).Inv
    ∧ ∃ t, step (presented32.presentNext 0x0000000000000000) = .next t :=
  ⟨⟨presented32_inv.banksWf, presented32_inv.configWf, presented32_inv.dmemWf⟩, _, rfl⟩

theorem witness_ResetMeetsInvariant :
    Memory.wf [(0, 0x41), (63, 0x42)] = true ∧ ∀ e ∈ [((0, 0x41) : Host.Cell), (63, 0x42)], e.1 < (64 : Word32).toNat := by decide

theorem witness_HostSizes : 1 ≤ 4 ∧ [0x10, 0x20, 0x30, 0x40, (0x50 : Byte)].length ≤ 5 ∧ 5 < hostBlockSize 5 4 * 4 := by decide

/-- What Encode returns, but the digest. -/
def encodedParts (r : Except HostError HostEncoded) : Option (List (List Byte) × Nat × Word32) :=
  match r with
  | .ok e => some (e.shards, e.metadata.blockSize, e.core.dmemBytes)
  | .error _ => none

theorem witness_HostDecodeInvertsEncode :
    base.Inv ∧ ∃ e, hostEncode base [0x41] 1 2 0 0x10 = .ok e
      ∧ (∀ p ∈ [(1, [(0x41 : Byte)])], e.shards[p.1]? = some p.2) ∧ ([(1, [(0x41 : Byte)])].map Prod.fst).Nodup
      ∧ 1 ≤ [(1, [(0x41 : Byte)])].length
      ∧ hostRegionsFit e.core 0x20 ([(1, [(0x41 : Byte)])].length * e.metadata.blockSize) 0x30 (1 * e.metadata.blockSize) = true := by
  have h : encodedParts (hostEncode base [0x41] 1 2 0 0x10) = some ([[0x41], [0x41]], 1, 256) := by decide +kernel
  refine ⟨⟨by unfold State.banksWf; decide, ⟨rfl, rfl, rfl⟩, rfl, by simp [base, State.powerOn]⟩, ?_⟩
  generalize hostEncode base [0x41] 1 2 0 0x10 = r at h ⊢
  cases r with
  | error _ => simp [encodedParts] at h
  | ok e =>
    simp only [encodedParts, Option.some.injEq, Prod.mk.injEq] at h
    obtain ⟨h1, h2, h3⟩ := h
    exact ⟨e, rfl, by simp [h1], by simp, by simp, by simp [hostRegionsFit, h2, h3]⟩

end Sys2Proof.Tests
end

section
/-! SUPPORT. What a command can do to the state, said once for the whole command set (rules R19, R75, R76), and the frames, the
count and the invariant that follow from it. -/

namespace Sys2Proof.Machine

open Sys2Proof.Claims

/-! ## What a command can do

Every command but SRST raises a status, or completes after one update of the state. The frames of the command set, the count and
the invariant are then case analyses over the kinds of update, not over the commands' bodies. -/

/-- What command `i` makes of `s` when it completes, its response and count apart (rules R19, R75). A scalar register and a bank
are named by the command's own destination; every write to DMEM carries the check that lets it through. -/
inductive Update (s : State) : Instr → State → Prop where
  | nop : Update s .nop s
  | crr (cr : Byte) : Update s (.crr cr) s
  | pidxr (slot : Byte) : Update s (.pidxr slot) s
  | gfrd (ga : Byte) : Update s (.gfrd ga) s
  | scalar {i : Instr} {d : Fin 16} (v : Byte) (dest : scalarDestination i = some d.val) : Update s i (s.setG d v)
  | bank {i : Instr} {b : Fin 4} {x : MatrixVal} (hb : b ≠ 0) (dest : bankDestinations i = [b.val])
      (hx : s.banksWf → x.wf = true) : Update s i (s.setBank b x)
  | cfg {k n : BitVec 16} (ok : checkParams k n = none) : Update s (.cfg k n) (s.configure k n)
  | src (v : Word32) : Update s (.crw 3 v) { s with src := v }
  | dst (v : Word32) : Update s (.crw 4 v) { s with dst := v }
  | blen (v : Word32) : Update s (.crw 5 v) { s with blen := v }
  | pcnt (v : Word32) : Update s (.crw 6 v) { s with pcnt := v.extractLsb' 0 8 }
  | pidxw (slot v : Byte) : Update s (.pidxw slot v) (s.setPidx slot v)
  | stb (ga : Byte) {addr : Word32} (v : Byte) (inside : s.hasByte addr.toNat = true) :
      Update s (.stb ga addr) (s.setDmem (memWrite s.dmem addr.toNat v))
  | enc (fits : s.regionsOk s.k.toNat s.n.toNat = true) : Update s .enc (s.writeDestination s.encodedBlocks s.n.toNat)
  | dec {x : MatrixVal} (fits : s.regionsOk s.pcnt.toNat s.k.toNat = true) (inverse : invert s.selectedMatrix = .ok x) :
      Update s .dec (s.recover x)

/-- The answers of command `i` in state `s`: a status raised on the pre-state (rule R76), or a completed update. -/
inductive Answers (s : State) (i : Instr) : Res → Prop where
  | raised {status : Status} (info : Word32) (failure : status ≠ .ok) : Answers s i (raise status info s)
  | completed {u : State} (v : Word32) (update : Update s i u) : Answers s i (complete v u)

section

variable {s : State} {i : Instr}

theorem Answers.withOperand {α : Type} {operand : Option α} {rest : α → Res}
    (h : ∀ x, operand = some x → Answers s i (rest x)) : Answers s i (withOperand operand s rest) := by
  cases operand with
  | none => exact .raised 0 (by simp)
  | some x => exact h x rfl

theorem Answers.withCell {x : MatrixVal} {row col : Byte} {rest : Res} (h : Answers s i rest) :
    Answers s i (withCell x row col s rest) := by
  unfold Machine.withCell
  split
  · exact h
  · exact .raised 0 (by simp)

theorem Answers.completeG {d : Fin 16} (v : Byte) (dest : scalarDestination i = some d.val) :
    Answers s i (completeG d v s) :=
  .completed _ (.scalar v dest)

theorem Answers.fieldOp {op : Byte → Byte → Byte} {gd ga gb : Byte} (dest : scalarDestination i = some gd.toNat) :
    Answers s i (fieldOp op gd ga gb s) :=
  withOperand fun _ hd => withOperand fun _ _ => withOperand fun _ _ =>
    completeG _ (dest.trans (congrArg some (gregOf_eq_some.mp hd)))

/-- A whole bank other than bank 0 is replaced by a matrix value (rule R25). -/
theorem Answers.setBank {md : Byte} {d : Fin 4} {x : MatrixVal} (hd : destBankOf md = some d)
    (dest : bankDestinations i = [md.toNat]) (hx : s.banksWf → x.wf = true) : Answers s i (complete 0 (s.setBank d x)) := by
  obtain ⟨hd, hd0⟩ := destBankOf_eq_some.mp hd
  exact .completed 0 (.bank hd0 (hd ▸ dest) hx)

theorem Answers.writeCell {md row col v : Byte} (dest : bankDestinations i = [md.toNat]) :
    Answers s i (writeCell md row col v s) :=
  withOperand fun d hd => withCell (setBank hd dest fun hs => MatrixVal.wf_setCell _ _ _ (hs d))

end

/-! ### The answers of each command with checks of its own -/

theorem byte_toNat_le (b : Byte) : b.toNat ≤ 255 := Nat.le_of_lt_succ b.isLt

theorem wf_matMul {a b : MatrixVal} (ha : a.wf = true) (hb : b.wf = true) : (matMul a b).wf = true :=
  wf_matBuild _ ((MatrixVal.wf_iff a).mp ha).1 ((MatrixVal.wf_iff b).mp hb).2.1

section

variable (s : State)

theorem answers_cfg (k n : BitVec 16) : Answers s (.cfg k n) (execCfg k n s) := by
  unfold execCfg
  split
  · exact .raised _ (by simp)
  · next ok => exact .completed 0 (.cfg ok)

theorem answers_crw (cr : Byte) (v : Word32) : Answers s (.crw cr v) (execCrw cr v s) :=
  .withOperand fun s' hs' => by
    rcases crWrite_cases hs' with ⟨rfl, rfl⟩ | ⟨rfl, rfl⟩ | ⟨rfl, rfl⟩ | ⟨rfl, -, rfl⟩
    · exact .completed 0 (.src v)
    · exact .completed 0 (.dst v)
    · exact .completed 0 (.blen v)
    · exact .completed 0 (.pcnt v)

theorem answers_gfinv (gd ga : Byte) : Answers s (.gfinv gd ga) (execGfinv gd ga s) :=
  .withOperand fun d hd => .withOperand fun a _ => by
    split
    · exact .raised 0 (by simp)
    · exact .completeG _ (congrArg some (gregOf_eq_some.mp hd))

theorem answers_ldb (gd : Byte) (addr : Word32) : Answers s (.ldb gd addr) (execLdb gd addr s) :=
  .withOperand fun d hd => by
    split
    · exact .completeG _ (congrArg some (gregOf_eq_some.mp hd))
    · exact .raised 0 (by simp)

theorem answers_stb (ga : Byte) (addr : Word32) : Answers s (.stb ga addr) (execStb ga addr s) :=
  .withOperand fun a _ => by
    split
    · next inside => exact .completed 0 (.stb ga _ inside)
    · exact .raised 0 (by simp)

theorem answers_mmul (md ma mb : Byte) : Answers s (.mmul md ma mb) (execMmul md ma mb s) :=
  .withOperand fun d hd => .withOperand fun a _ => .withOperand fun b _ => by
    split
    · exact .setBank hd rfl fun hs => wf_matMul (hs a) (hs b)
    · exact .raised 0 (by simp)

theorem answers_minv (md ma : Byte) : Answers s (.minv md ma) (execMinv md ma s) :=
  .withOperand fun d hd => .withOperand fun a _ => by
    split
    · next square =>
      split
      · exact .raised _ (by simp)
      · next x hx => exact .setBank hd rfl fun hs => (invert_ok_shape (hs a) square hx).1
    · exact .raised 0 (by simp)

theorem answers_enc : Answers s .enc (execEnc s) := by
  unfold execEnc
  split
  · split
    · next fits => exact .completed 0 (.enc fits)
    · exact .raised 0 (by simp)
  · exact .raised 0 (by simp)

/-- The index checks raise a failure, never OK (rule R201). -/
theorem checkIndices_ne_ok {status : Status} {info : Word32} (h : s.checkIndices = some (status, info)) : status ≠ .ok := by
  unfold State.checkIndices at h
  split at h
  · cases h
    simp
  · split at h
    · cases h
      simp
    · simp at h

theorem answers_dec : Answers s .dec (execDec s) := by
  unfold execDec
  split
  · split
    · next hc => exact .raised _ (checkIndices_ne_ok s hc)
    · split
      · next fits =>
        split
        · exact .raised _ (by simp)
        · next inverse => exact .completed 0 (.dec fits inverse)
      · exact .raised 0 (by simp)
  · exact .raised 0 (by simp)

/-- What every command but SRST answers (rules R75, R76). -/
theorem exec_answers {i : Instr} (hi : i ≠ .srst) : Answers s i (exec i s) := by
  cases i with
  | nop => exact .completed 0 .nop
  | srst => exact absurd rfl hi
  | cfg k n => exact answers_cfg s k n
  | crw cr v => exact answers_crw s cr v
  | crr cr => exact .withOperand fun v _ => .completed v (.crr cr)
  | pidxw slot v => exact .completed 0 (.pidxw slot v)
  | pidxr slot => exact .completed _ (.pidxr slot)
  | gfldi gd v => exact .withOperand fun d hd => .completeG v (congrArg some (gregOf_eq_some.mp hd))
  | gfadd gd ga gb => exact .fieldOp rfl
  | gfmul gd ga gb => exact .fieldOp rfl
  | gfinv gd ga => exact answers_gfinv s gd ga
  | gfrd ga => exact .withOperand fun a _ => .completed _ (.gfrd ga)
  | ldb gd addr => exact answers_ldb s gd addr
  | stb ga addr => exact answers_stb s ga addr
  | mdim md rows cols =>
    exact .withOperand fun d hd => .setBank hd rfl fun _ => wf_matBuild _ (byte_toNat_le rows) (byte_toNat_le cols)
  | mwri md row col v => exact .writeCell rfl
  | mget ma row col gd => exact .withOperand fun a _ => .withCell (.completed _ (.scalar _ rfl))
  | mput md row col ga => exact .writeCell rfl
  | mmul md ma mb => exact answers_mmul s md ma mb
  | minv md ma => exact answers_minv s md ma
  | enc => exact answers_enc s
  | dec => exact answers_dec s

end

/-! ### The next state of a command -/

section

variable {s t : State} {i : Instr}

/-- The next state of a command but SRST: the pre-state with a failure as its response, or an update with the response OK. -/
theorem exec_cases (h : exec i s = .next t) (hi : i ≠ .srst) :
    (∃ status info, status ≠ .ok ∧ t = s.respond status info) ∨ ∃ u v, Update s i u ∧ t = u.respond .ok v := by
  have answers := exec_answers s hi
  generalize exec i s = r at h answers
  cases answers with
  | raised info failure => exact .inl ⟨_, info, failure, raise_next.mp h⟩
  | completed v update => exact .inr ⟨_, v, update, complete_next.mp h⟩

/-- Every command answers a next state (part 2 of 93_implementation_defined.md). -/
theorem exec_total (i : Instr) (s : State) : ∃ t, exec i s = .next t := by
  by_cases hi : i = .srst
  · subst hi
    exact ⟨_, rfl⟩
  · have answers := exec_answers s hi
    generalize exec i s = r at answers
    cases answers with
    | raised info _ => exact ⟨_, rfl⟩
    | completed v _ => exact ⟨_, rfl⟩

/-- The next state of a command word: SRST's reset state, or an update of the pre-state, or the pre-state itself, with a response
(rules R75, R76, R77, R231). -/
theorem runCommand_cases {w : Command} (h : runCommand w s = .next t) :
    (decode w = .ok .srst ∧ t = s.resetKeepingDmem)
      ∨ decode w ≠ .ok .srst ∧ ∃ u status v, (u = s ∨ ∃ i, decode w = .ok i ∧ Update s i u) ∧ t = u.respond status v := by
  unfold runCommand at h
  split at h
  · next i hw =>
    by_cases hi : i = .srst
    · subst hi
      exact .inl ⟨hw, (Host.Outcome.next.inj h).symm⟩
    · refine .inr ⟨by simp [hw, hi], ?_⟩
      rcases exec_cases h hi with ⟨status, info, -, ht⟩ | ⟨u, v, update, ht⟩
      · exact ⟨s, status, info, .inl rfl, ht⟩
      · exact ⟨u, .ok, v, .inr ⟨i, hw, update⟩, ht⟩
  · next hw => exact .inr ⟨by simp [hw], s, _, _, .inl rfl, raise_next.mp h⟩

end

/-! ## What an update leaves unchanged -/

section

variable (s : State)

theorem bankDestinations_cfg (k n : BitVec 16) : bankDestinations (.cfg k n) = [0] := rfl

theorem bankDestinations_dec : bankDestinations .dec = [1, 2] := rfl

theorem State.setG_g_ne {d r : Fin 16} (v : Byte) (h : r ≠ d) : (s.setG d v).g[r] = s.g[r] :=
  Vector.getElem_set_ne d.isLt r.isLt fun e => h (Fin.ext e.symm)

theorem State.setBank_banks_ne {b c : Fin 4} (x : MatrixVal) (h : c ≠ b) : (s.setBank b x).banks[c] = s.banks[c] :=
  Vector.getElem_set_ne b.isLt c.isLt fun e => h (Fin.ext e.symm)

theorem State.setPidx_pidx_ne {slot : Byte} {r : Fin 256} (v : Byte) (h : slot.toNat ≠ r.val) :
    (s.setPidx slot v).pidx[r] = s.pidx[r] :=
  Vector.getElem_set_ne slot.isLt r.isLt h

end

section

variable {s u : State} {i : Instr}

/-- The count belongs to the response alone (rule R35). -/
theorem Update.ccnt_eq (h : Update s i u) : u.ccnt = s.ccnt := by
  cases h <;> rfl

theorem Update.g_frame (h : Update s i u) {r : Fin 16} (hr : scalarDestination i ≠ some r.val) : u.g[r] = s.g[r] := by
  cases h with
  | scalar v dest => exact s.setG_g_ne v fun e => hr (e ▸ dest)
  | _ => rfl

theorem Update.bank_frame (h : Update s i u) {c : Fin 4} (hc : c.val ∉ bankDestinations i) : u.banks[c] = s.banks[c] := by
  cases h with
  | bank _ dest _ => exact s.setBank_banks_ne _ fun e => hc (by simp [dest, e])
  | cfg _ => exact s.setBank_banks_ne _ fun e => hc (by simp [bankDestinations_cfg, e])
  | dec _ _ =>
    have h2 : c ≠ 2 := fun e => hc (by simp [bankDestinations_dec, e])
    have h1 : c ≠ 1 := fun e => hc (by simp [bankDestinations_dec, e])
    exact (State.setBank_banks_ne _ _ h2).trans (State.setBank_banks_ne _ _ h1)
  | _ => rfl

/-- The generator bank and the code parameters change by CFG alone (rules R25, R32). -/
theorem Update.config_frame (h : Update s i u) (hi : ∀ k n, i ≠ .cfg k n) :
    u.banks[0] = s.banks[0] ∧ u.k = s.k ∧ u.n = s.n ∧ u.cfgok = s.cfgok := by
  have bank_zero (hc : 0 ∉ bankDestinations i) : u.banks[0] = s.banks[0] := h.bank_frame (c := 0) hc
  cases h with
  | bank hb dest _ => exact ⟨bank_zero (by simpa [dest] using fun e => hb (Fin.ext e.symm)), rfl, rfl, rfl⟩
  | cfg _ => exact absurd rfl (hi _ _)
  | dec _ _ => exact ⟨bank_zero (by simp [bankDestinations_dec]), rfl, rfl, rfl⟩
  | _ => exact ⟨rfl, rfl, rfl, rfl⟩

theorem Update.src_frame (h : Update s i u) (hi : ∀ v, i ≠ .crw 3 v) : u.src = s.src := by
  cases h with
  | src v => exact absurd rfl (hi v)
  | _ => rfl

theorem Update.dst_frame (h : Update s i u) (hi : ∀ v, i ≠ .crw 4 v) : u.dst = s.dst := by
  cases h with
  | dst v => exact absurd rfl (hi v)
  | _ => rfl

theorem Update.blen_frame (h : Update s i u) (hi : ∀ v, i ≠ .crw 5 v) : u.blen = s.blen := by
  cases h with
  | blen v => exact absurd rfl (hi v)
  | _ => rfl

theorem Update.pcnt_frame (h : Update s i u) (hi : ∀ v, i ≠ .crw 6 v) : u.pcnt = s.pcnt := by
  cases h with
  | pcnt v => exact absurd rfl (hi v)
  | _ => rfl

theorem Update.pidx_frame (h : Update s i u) {r : Fin 256} (hi : ∀ v, i ≠ .pidxw (BitVec.ofNat 8 r.val) v) :
    u.pidx[r] = s.pidx[r] := by
  cases h with
  | pidxw slot v =>
    refine s.setPidx_pidx_ne v fun e => hi v ?_
    rw [← e, BitVec.ofNat_toNat, BitVec.setWidth_eq]
  | _ => rfl

end

/-! ## Which bytes of DMEM a command writes -/

section

variable {s u t : State} {i : Instr}

/-- The destination region of an ENC or DEC that passes its check lies in DMEM (rule R54). -/
theorem State.regionsOk_destination {ns nd : Nat} (h : s.regionsOk ns nd = true) :
    s.dst.toNat + nd * s.blen.toNat ≤ s.dmemBytes.toNat := by
  simp only [State.regionsOk, Bool.and_eq_true, decide_eq_true_eq] at h
  exact h.1.2

theorem hasByte_of_mem_region {base len a : Nat} (fits : base + len ≤ s.dmemBytes.toNat)
    (ha : a ∈ (List.range len).map (base + ·)) : s.hasByte a = true := by
  obtain ⟨j, hj, rfl⟩ := List.mem_map.mp ha
  have hj := List.mem_range.mp hj
  simp only [State.hasByte, decide_eq_true_eq]
  omega

theorem commandWrites_of_scalarDestination {r : Nat} (dest : scalarDestination i = some r) : commandWrites i s = [] := by
  cases i with
  | stb | enc | dec => exact absurd dest.symm (Option.some_ne_none r)
  | _ => rfl

theorem commandWrites_of_bankDestinations {b : Nat} (dest : bankDestinations i = [b]) : commandWrites i s = [] := by
  cases i with
  | stb | enc => exact absurd dest.symm (List.cons_ne_nil _ _)
  | dec => simp [bankDestinations_dec] at dest
  | _ => rfl

/-- A command that completes writes bytes of DMEM only (rules R50, R53, R54). -/
theorem Update.hasByte_of_mem_commandWrites (h : Update s i u) {a : Nat} (ha : a ∈ commandWrites i s) :
    s.hasByte a = true := by
  cases h with
  | scalar _ dest => simp [commandWrites_of_scalarDestination dest] at ha
  | bank _ dest _ => simp [commandWrites_of_bankDestinations dest] at ha
  | stb _ _ inside =>
    rw [List.mem_singleton.mp ha]
    exact inside
  | enc fits => exact hasByte_of_mem_region (State.regionsOk_destination fits) ha
  | dec fits _ => exact hasByte_of_mem_region (State.regionsOk_destination fits) ha
  | _ => simp [commandWrites] at ha

/-- What a reset during a command leaves unspecified are bytes of DMEM (rule R311). -/
theorem hasByte_of_mem_interruptedWrites {w : Command} {a : Nat} (ha : a ∈ interruptedWrites w s) : s.hasByte a = true := by
  unfold interruptedWrites at ha
  split at ha
  · simp at ha
  · next i _ =>
    split at ha
    · next t ht =>
      split at ha
      · next ok =>
        by_cases hi : i = .srst
        · subst hi
          simp [commandWrites] at ha
        · rcases exec_cases ht hi with ⟨_, _, failure, rfl⟩ | ⟨_, _, update, -⟩
          · exact absurd ok failure
          · exact update.hasByte_of_mem_commandWrites ha
      · simp at ha
    · simp at ha
    · simp at ha

end

/-! ## Commands that do not see DMEM -/

/-- An outcome with a function applied to its next state. -/
def mapNext (f : State → State) : Res → Res
  | .next t => .next (f t)
  | .fault r => .fault r
  | .refused r => .refused r

/-- A command that does the same whatever DMEM holds: replacing DMEM before it is replacing DMEM after it. -/
def IgnoresDmem (c : State → Res) : Prop := ∀ (s : State) (m : Memory), c (s.setDmem m) = mapNext (·.setDmem m) (c s)

theorem IgnoresDmem.raise (status : Status) (info : Word32) : IgnoresDmem (raise status info) := fun _ _ => rfl

/-- A command that completes with an answer and an update taken from the state without its DMEM. -/
theorem IgnoresDmem.complete {v : State → Word32} {f : State → State} (hv : ∀ s m, v (s.setDmem m) = v s)
    (hf : ∀ s m, f (s.setDmem m) = (f s).setDmem m) : IgnoresDmem fun s => complete (v s) (f s) := by
  intro s m
  simp only [hv, hf]
  rfl

theorem IgnoresDmem.completeG (d : Fin 16) {v : State → Byte} (hv : ∀ s m, v (s.setDmem m) = v s) :
    IgnoresDmem fun s => completeG d (v s) s :=
  complete (fun s m => by rw [hv]) fun s m => by rw [hv]; rfl

theorem IgnoresDmem.withOperand {α : Type} (operand : Option α) {rest : α → State → Res} (h : ∀ x, IgnoresDmem (rest x)) :
    IgnoresDmem fun s => withOperand operand s fun x => rest x s := by
  cases operand with
  | none => exact raise .badOperand 0
  | some x => exact h x

theorem IgnoresDmem.ite {p : State → Prop} [DecidablePred p] {c c' : State → Res} (hp : ∀ s m, p (s.setDmem m) ↔ p s)
    (h : IgnoresDmem c) (h' : IgnoresDmem c') : IgnoresDmem fun s => if p s then c s else c' s := by
  intro s m
  simp only [hp, h s m, h' s m]
  split <;> rfl

theorem IgnoresDmem.withCell (b : Fin 4) (row col : Byte) {rest : State → Res} (h : IgnoresDmem rest) :
    IgnoresDmem fun s => withCell s.banks[b] row col s (rest s) :=
  ite (fun _ _ => Iff.rfl) h (raise .dimError 0)

theorem IgnoresDmem.fieldOp (op : Byte → Byte → Byte) (gd ga gb : Byte) : IgnoresDmem (fieldOp op gd ga gb) :=
  withOperand _ fun d => withOperand _ fun _ => withOperand _ fun _ => completeG d fun _ _ => rfl

theorem IgnoresDmem.writeCell (md row col : Byte) {v : State → Byte} (hv : ∀ s m, v (s.setDmem m) = v s) :
    IgnoresDmem fun s => writeCell md row col (v s) s :=
  withOperand _ fun d => withCell d row col (complete (fun _ _ => rfl) fun s m => by rw [hv]; rfl)

theorem ignoresDmem_cfg (k n : BitVec 16) : IgnoresDmem (execCfg k n) := by
  intro s m
  unfold execCfg
  split <;> rfl

theorem ignoresDmem_crw (cr : Byte) (v : Word32) : IgnoresDmem (execCrw cr v) := by
  intro s m
  have commutes : crWrite cr v (s.setDmem m) = (crWrite cr v s).map (·.setDmem m) := by
    unfold crWrite
    split
    case h_4 => split <;> rfl
    all_goals rfl
  rw [execCrw, execCrw, commutes]
  cases crWrite cr v s <;> rfl

theorem ignoresDmem_crr (cr : Byte) : IgnoresDmem (execCrr cr) := by
  intro s m
  have same : crRead cr (s.setDmem m) = crRead cr s := by
    unfold crRead
    split <;> rfl
  rw [execCrr, execCrr, same]
  cases crRead cr s <;> rfl

theorem ignoresDmem_gfinv (gd ga : Byte) : IgnoresDmem (execGfinv gd ga) :=
  .withOperand _ fun d => .withOperand _ fun a s m => by
    rw [State.setDmem_g]
    cases gfInv s.g[a] <;> rfl

theorem ignoresDmem_minv (md ma : Byte) : IgnoresDmem (execMinv md ma) :=
  .withOperand _ fun d => .withOperand _ fun a => .ite (fun _ _ => Iff.rfl)
    (fun s m => by
      rw [State.setDmem_banks]
      cases invert s.banks[a] <;> rfl)
    (.raise .dimError 0)

/-- LDB, STB, ENC and DEC are the only commands that see DMEM (rules R39, R51). -/
theorem exec_ignoresDmem {i : Instr} (hldb : ∀ gd addr, i ≠ .ldb gd addr) (hstb : ∀ ga addr, i ≠ .stb ga addr)
    (henc : i ≠ .enc) (hdec : i ≠ .dec) : IgnoresDmem (exec i) := by
  cases i with
  | nop => exact .complete (fun _ _ => rfl) fun _ _ => rfl
  | srst => exact fun _ _ => rfl
  | cfg k n => exact ignoresDmem_cfg k n
  | crw cr v => exact ignoresDmem_crw cr v
  | crr cr => exact ignoresDmem_crr cr
  | pidxw slot v => exact .complete (fun _ _ => rfl) fun _ _ => rfl
  | pidxr slot => exact .complete (fun _ _ => rfl) fun _ _ => rfl
  | gfldi gd v => exact .withOperand _ fun d => .completeG d fun _ _ => rfl
  | gfadd gd ga gb => exact .fieldOp gfAdd gd ga gb
  | gfmul gd ga gb => exact .fieldOp gfMul gd ga gb
  | gfinv gd ga => exact ignoresDmem_gfinv gd ga
  | gfrd ga => exact .withOperand _ fun _ => .complete (fun _ _ => rfl) fun _ _ => rfl
  | ldb gd addr => exact absurd rfl (hldb gd addr)
  | stb ga addr => exact absurd rfl (hstb ga addr)
  | mdim md rows cols => exact .withOperand _ fun _ => .complete (fun _ _ => rfl) fun _ _ => rfl
  | mwri md row col v => exact .writeCell md row col fun _ _ => rfl
  | mget ma row col gd =>
    exact .withOperand _ fun a => .withCell a row col (.complete (fun _ _ => rfl) fun _ _ => rfl)
  | mput md row col ga => exact .writeCell md row col fun _ _ => rfl
  | mmul md ma mb =>
    exact .withOperand _ fun d => .withOperand _ fun a => .withOperand _ fun b =>
      .ite (fun _ _ => Iff.rfl) (.complete (fun _ _ => rfl) fun _ _ => rfl) (.raise .dimError 0)
  | minv md ma => exact ignoresDmem_minv md ma
  | enc => exact absurd rfl henc
  | dec => exact absurd rfl hdec

/-! ## The invariant (rule R42) -/

section

variable {s t u : State} {i : Instr}

/-! ### DMEM -/

theorem State.dmemWf_memWrite (h : s.dmemWf) {addr : Nat} (v : Byte) (inside : s.hasByte addr = true) :
    (s.setDmem (memWrite s.dmem addr v)).dmemWf := by
  refine ⟨Memory.wf_memWrite addr v h.1, fun e he => ?_⟩
  rcases memWrite_address he with he | he
  · exact h.2 e he
  · rw [he]
    exact of_decide_eq_true inside

theorem State.dmemWf_writeDestination (h : s.dmemWf) (blocks : List (List Byte)) {count : Nat}
    (fits : s.dst.toNat + count * s.blen.toNat ≤ s.dmemBytes.toNat) : (s.writeDestination blocks count).dmemWf := by
  refine ⟨Memory.wf_memWriteBytes _ _ h.1, fun e he => ?_⟩
  rcases memWriteBytes_address he with he | ⟨-, he⟩
  · exact h.2 e he
  · rw [regionBytes_length] at he
    exact he.trans_le fits

theorem State.dmemWf_memWriteCells (h : s.dmemWf) {cells : List Host.Cell} (inside : ∀ c ∈ cells, s.hasByte c.1 = true) :
    (s.setDmem (memWriteCells s.dmem cells)).dmemWf := by
  refine ⟨Memory.wf_memWriteCells cells h.1, fun e he => ?_⟩
  rcases memWriteCells_address he with he | ⟨c, hc, he⟩
  · exact h.2 e he
  · rw [← he]
    exact of_decide_eq_true (inside c hc)

theorem Update.dmemWf (h : Update s i u) (hs : s.dmemWf) : u.dmemWf := by
  cases h with
  | stb _ v inside => exact State.dmemWf_memWrite hs v inside
  | enc fits => exact State.dmemWf_writeDestination hs _ (State.regionsOk_destination fits)
  | dec fits _ => exact State.dmemWf_writeDestination (s := (s.setBank 1 _).setBank 2 _) hs _ (State.regionsOk_destination fits)
  | _ => exact hs

/-! ### Banks -/

theorem State.banksWf_setBank (h : s.banksWf) (b : Fin 4) {x : MatrixVal} (hx : x.wf = true) : (s.setBank b x).banksWf := by
  intro c
  by_cases hc : c = b
  · subst hc
    rw [show (s.setBank c x).banks[c] = x from Vector.getElem_set_self c.isLt]
    exact hx
  · rw [s.setBank_banks_ne x hc]
    exact h c

theorem wf_selectedMatrix (s : State) : s.selectedMatrix.wf = true := wf_matBuild _ (byte_toNat_le s.k) (byte_toNat_le s.k)

theorem checkParams_eq_none {k n : BitVec 16} :
    checkParams k n = none ↔ 1 ≤ k.toNat ∧ k.toNat ≤ n.toNat ∧ n.toNat ≤ 255 := by
  unfold checkParams
  split_ifs <;> simp <;> omega

theorem Update.banksWf (h : Update s i u) (hs : s.banksWf) : u.banksWf := by
  cases h with
  | bank _ _ hx => exact State.banksWf_setBank hs _ (hx hs)
  | cfg ok =>
    obtain ⟨-, hkn, hn⟩ := checkParams_eq_none.mp ok
    exact State.banksWf_setBank hs 0 (wf_gen (hkn.trans hn) hn)
  | dec _ inverse =>
    exact State.banksWf_setBank (State.banksWf_setBank hs 1 (wf_selectedMatrix s)) 2
      (invert_ok_shape (wf_selectedMatrix s) rfl inverse).1
  | _ => exact hs

/-! ### Configuration -/

theorem State.configWf_congr (hs : s.configWf)
    (same : u.banks[0] = s.banks[0] ∧ u.k = s.k ∧ u.n = s.n ∧ u.cfgok = s.cfgok) : u.configWf := by
  obtain ⟨hbank, hk, hn, hcfgok⟩ := same
  unfold State.configWf
  rw [hbank, hk, hn, hcfgok]
  exact hs

theorem low_byte_toNat {x : BitVec 16} (h : x.toNat ≤ 255) : (x.extractLsb' 0 8).toNat = x.toNat := by
  rw [BitVec.extractLsb'_toNat, Nat.shiftRight_zero, Nat.mod_eq_of_lt (by omega)]

theorem State.configWf_configure {k n : BitVec 16} (ok : checkParams k n = none) : (s.configure k n).configWf := by
  obtain ⟨hk, hkn, hn⟩ := checkParams_eq_none.mp ok
  have hk' := low_byte_toNat (hkn.trans hn)
  have hn' := low_byte_toNat hn
  unfold State.configWf
  simp [hk', hn', hk, hkn]

theorem Update.configWf (h : Update s i u) (hs : s.configWf) : u.configWf := by
  by_cases hi : ∃ k n, i = .cfg k n
  · obtain ⟨k, n, rfl⟩ := hi
    cases h with
    | cfg ok => exact State.configWf_configure ok
    | scalar _ dest => exact absurd dest.symm (Option.some_ne_none _)
    | bank hb dest _ => exact absurd (Fin.ext (List.singleton_inj.mp dest).symm) hb
  · exact State.configWf_congr hs (h.config_frame fun k n e => hi ⟨k, n, e⟩)

/-! ### Every step -/

theorem State.Inv.update (hs : s.Inv) (h : Update s i u) : u.Inv :=
  ⟨h.banksWf hs.banksWf, h.configWf hs.configWf, h.dmemWf hs.dmemWf⟩

theorem State.Inv.respond (hs : s.Inv) (status : Status) (v : Word32) : (s.respond status v).Inv :=
  ⟨hs.banksWf, hs.configWf, hs.dmemWf⟩

theorem State.Inv.takeInput (hs : s.Inv) (rest : List HostInput) : State.Inv { s with inputs := rest } :=
  ⟨hs.banksWf, hs.configWf, hs.dmemWf⟩

theorem State.Inv.setDmem (hs : s.Inv) {m : Memory} (hm : (s.setDmem m).dmemWf) : (s.setDmem m).Inv :=
  ⟨hs.banksWf, hs.configWf, hm⟩

theorem inv_powerOn (bytes : Word32) {mem : Memory} (hm : mem.wf = true) (inside : ∀ e ∈ mem, e.1 < bytes.toNat) :
    (State.powerOn bytes mem).Inv where
  banksWf := fun b => by
    rw [show (State.powerOn bytes mem).banks[b] = ⟨0, 0, []⟩ from Vector.getElem_replicate b.isLt]
    rfl
  configWf := ⟨rfl, rfl, rfl⟩
  dmemWf := ⟨hm, inside⟩

theorem inv_resetKeepingDmem (h : s.dmemWf) : s.resetKeepingDmem.Inv :=
  have on := inv_powerOn s.dmemBytes h.1 h.2
  ⟨on.banksWf, on.configWf, on.dmemWf⟩

theorem runCommand_inv {w : Command} (hs : s.Inv) (h : runCommand w s = .next t) : t.Inv := by
  rcases runCommand_cases h with ⟨-, rfl⟩ | ⟨-, u, status, v, rfl | ⟨i, -, update⟩, rfl⟩
  · exact inv_resetKeepingDmem hs.dmemWf
  · exact hs.respond status v
  · exact (hs.update update).respond status v

/-- A host write that is answered names bytes of DMEM only (rule R64). -/
theorem runDmemWrite_cases {cells : List Host.Cell} (h : runDmemWrite cells s = .next t) :
    (∀ c ∈ cells, s.hasByte c.1 = true) ∧ t = s.setDmem (memWriteCells s.dmem cells) := by
  unfold runDmemWrite at h
  split at h
  · simp at h
  · next inside => exact ⟨by simpa using inside, (Host.Outcome.next.inj h).symm⟩

theorem runDmemWrite_inv {cells : List Host.Cell} (hs : s.Inv) (h : runDmemWrite cells s = .next t) : t.Inv := by
  obtain ⟨inside, rfl⟩ := runDmemWrite_cases h
  exact hs.setDmem (State.dmemWf_memWriteCells hs.dmemWf inside)

theorem runResetDuring_inv {w : Command} (hs : s.Inv) (h : runResetDuring w s = .next t) : t.Inv := by
  have inside : ∀ c ∈ (interruptedWrites w s).map fun addr => (addr, Config.unspecifiedByte s.fresh addr),
      s.hasByte c.1 = true := by
    intro c hc
    obtain ⟨addr, ha, rfl⟩ := List.mem_map.mp hc
    exact hasByte_of_mem_interruptedWrites ha
  have on := inv_resetKeepingDmem (State.dmemWf_memWriteCells hs.dmemWf inside)
  rw [← Host.Outcome.next.inj h]
  exact ⟨on.banksWf, on.configWf, on.dmemWf⟩

theorem runInput_inv {input : HostInput} (hs : s.Inv) (h : runInput input s = .next t) : t.Inv := by
  cases input with
  | command w => exact runCommand_inv hs h
  | dmemWrite cells => exact runDmemWrite_inv hs h
  | reset =>
    rw [← Host.Outcome.next.inj h]
    exact inv_resetKeepingDmem hs.dmemWf
  | resetDuring w => exact runResetDuring_inv hs h

theorem step_inv (hs : s.Inv) (h : step s = .next t) : t.Inv := by
  unfold step at h
  split at h
  · rw [← Host.Outcome.next.inj h]
    exact hs
  · next input rest _ => exact runInput_inv (hs.takeInput rest) h

end

/-! ## The statements -/

/-- Settles O57: each kind of input, and each kind of update a command makes, keeps the three parts of the invariant. -/
theorem stepKeepsInvariant : Obligations.StepKeepsInvariant := fun _ _ => step_inv

/-- Settles O10: the response counts and no update does; SRST leaves the reset value. -/
theorem everyCommandIsCounted : Obligations.EveryCommandIsCounted := by
  refine ⟨fun s t w h => ?_, fun s => rfl⟩
  rw [step_presentNext] at h
  rcases runCommand_cases h with ⟨hw, rfl⟩ | ⟨hw, u, status, v, rfl | ⟨i, -, update⟩, rfl⟩
  · rw [if_pos hw, State.resetKeepingDmem_ccnt]
  · rw [if_neg hw, State.respond_ccnt]
  · rw [if_neg hw, State.respond_ccnt, update.ccnt_eq]

/-- Settles O52: replacing DMEM commutes with the command, and DMEM of the next state is then read off by replacing DMEM with
itself. -/
theorem onlyFourCommandsReachDmem : Obligations.OnlyFourCommandsReachDmem := by
  intro i s hldb hstb henc hdec
  have ignores := exec_ignoresDmem hldb hstb henc hdec s
  obtain ⟨t, ht⟩ := exec_total i s
  have replaced (m : Memory) : exec i (s.setDmem m) = .next (t.setDmem m) := by rw [ignores m, ht]; rfl
  have itself : t = t.setDmem s.dmem := Host.Outcome.next.inj (ht.symm.trans (replaced s.dmem :))
  have kept : t.dmem = s.dmem := by rw [itself, State.setDmem_dmem]
  exact ⟨t, ht, kept, fun a => by rw [kept], replaced⟩

/-- Settles O54, by the frame of an update; a failure writes no register. -/
theorem scalarRegisterFrame : Obligations.ScalarRegisterFrame := by
  intro i s t h hi r hr
  rcases exec_cases h hi with ⟨_, _, -, rfl⟩ | ⟨u, v, update, rfl⟩
  · rfl
  · exact update.g_frame hr

/-- Settles O55, by the frames of an update; a failure writes no bank and no code parameter. -/
theorem bankAndConfigFrame : Obligations.BankAndConfigFrame := by
  intro i s t h hi
  rcases exec_cases h hi with ⟨_, _, -, rfl⟩ | ⟨u, v, update, rfl⟩
  · exact ⟨fun _ _ => rfl, fun _ => ⟨rfl, rfl, rfl, rfl⟩⟩
  · exact ⟨fun _ => update.bank_frame, update.config_frame⟩

/-- Settles O56, by the frames of an update; a failure writes no control register and no slot. -/
theorem controlRegisterFrame : Obligations.ControlRegisterFrame := by
  intro i s t h hi
  rcases exec_cases h hi with ⟨_, _, -, rfl⟩ | ⟨u, v, update, rfl⟩
  · exact ⟨fun _ => rfl, fun _ => rfl, fun _ => rfl, fun _ => rfl, fun _ _ => rfl⟩
  · exact ⟨update.src_frame, update.dst_frame, update.blen_frame, update.pcnt_frame, fun _ => update.pidx_frame⟩

/-- Settles O5: a step takes the oldest input, and a word that decodes is executed. -/
theorem stepRunsDecodedCommand : Obligations.StepRunsDecodedCommand := by
  intro s w rest i hinputs hw
  rw [step_cons hinputs, runInput, runCommand, hw]

/-- Settles O58: the power-on state has cleared banks and no configuration, and the reset state is the one with no byte listed. -/
theorem resetMeetsInvariant : Obligations.ResetMeetsInvariant :=
  ⟨inv_powerOn _ Memory.wf_nil (by simp), fun bytes _ => inv_powerOn bytes⟩

end Sys2Proof.Machine
end

section
/-! SUPPORT. DMEM as the host and the commands write it: what a host write leaves at each address (rules R59, R64), and the bytes no
command touches (rules R53, R56, R116, R181, R205). -/

namespace Sys2Proof.Machine

open Sys2Proof.Claims

/-! ## Host writes -/

/-- A read after a host write answers the last byte listed for the address, or the byte that stood there (rules R59, R64). -/
theorem memRead_memWriteCells (m : Memory) (cells : List Host.Cell) (x : Nat) :
    memRead (memWriteCells m cells) x = ((cells.reverse.find? fun c => c.1 = x).map Prod.snd).getD (memRead m x) := by
  induction cells generalizing m with
  | nil => rfl
  | cons c cs ih =>
    rw [memWriteCells, ih, List.reverse_cons, List.find?_append]
    cases cs.reverse.find? fun c => c.1 = x with
    | some later => rfl
    | none =>
      by_cases hx : c.1 = x
      · simp [hx]
      · simp [hx, memRead_memWrite_other m c.2 (Ne.symm hx)]

/-- A host write that lists bytes of DMEM only is answered (rule R64). -/
theorem runDmemWrite_of_hasByte {s : State} {cells : List Host.Cell} (inside : ∀ c ∈ cells, s.hasByte c.1 = true) :
    runDmemWrite cells s = .next (s.setDmem (memWriteCells s.dmem cells)) := by
  have none_outside : (cells.find? fun c => !s.hasByte c.1) = none :=
    List.find?_eq_none.mpr fun c hc => by simp [inside c hc]
  rw [runDmemWrite, none_outside]

/-- A host write that lists an address outside DMEM stops the machine at such an address (log entry 7). -/
theorem runDmemWrite_fault {s : State} {cells : List Host.Cell} (outside : ∃ c ∈ cells, s.hasByte c.1 = false) :
    ∃ a, runDmemWrite cells s = .fault (.noSuchAddress a) ∧ s.hasByte a = false := by
  obtain ⟨c, hc, hout⟩ := outside
  obtain ⟨first, hfirst⟩ := Option.isSome_iff_exists.mp
    (List.find?_isSome.mpr ⟨c, hc, by simp [hout]⟩ : (cells.find? fun c => !s.hasByte c.1).isSome)
  exact ⟨first.1, by rw [runDmemWrite, hfirst], by simpa using List.find?_some hfirst⟩

/-! ## The bytes a command leaves -/

theorem mem_region {base len a : Nat} : a ∈ (List.range len).map (base + ·) ↔ base ≤ a ∧ a < base + len := by
  simp only [List.mem_map, List.mem_range]
  constructor
  · rintro ⟨j, hj, rfl⟩
    omega
  · exact fun ⟨low, high⟩ => ⟨a - base, by omega, by omega⟩

section

variable {s u t : State} {i : Instr} {a : Nat}

theorem State.writeDestination_outside (blocks : List (List Byte)) {count : Nat}
    (ha : a ∉ (List.range (count * s.blen.toNat)).map (s.dst.toNat + ·)) :
    memRead (s.writeDestination blocks count).dmem a = memRead s.dmem a := by
  rw [mem_region] at ha
  refine memRead_memWriteBytes_outside s.dmem _ ?_
  rw [regionBytes_length]
  omega

/-- A completed command changes no byte but those `commandWrites` names (rules R53, R116, R181, R205). -/
theorem Update.dmem_frame (h : Update s i u) (ha : a ∉ commandWrites i s) : memRead u.dmem a = memRead s.dmem a := by
  cases h with
  | stb _ v _ => exact memRead_memWrite_other s.dmem v fun e => ha (List.mem_singleton.mpr e)
  | enc _ => exact State.writeDestination_outside _ ha
  | dec _ _ => exact State.writeDestination_outside (s := (s.setBank 1 _).setBank 2 _) _ ha
  | _ => rfl

/-- No command changes a byte but those `commandWrites` names; a failing command and SRST change none (rules R56, R76, R231). -/
theorem exec_dmem_frame (h : exec i s = .next t) (ha : a ∉ commandWrites i s) : memRead t.dmem a = memRead s.dmem a := by
  by_cases hi : i = .srst
  · subst hi
    rw [← Host.Outcome.next.inj h, State.resetKeepingDmem_dmem]
  · rcases exec_cases h hi with ⟨_, _, -, rfl⟩ | ⟨u, v, update, rfl⟩
    · rfl
    · exact update.dmem_frame ha

theorem not_mem_region_of_outsideDestination {count : Nat} (h : OutsideDestination s count a) :
    a ∉ (List.range (count * s.blen.toNat)).map (s.dst.toNat + ·) := by
  unfold OutsideDestination at h
  rw [mem_region]
  omega

end

/-! ## The statements -/

/-- Settles O16: the step runs the host write on the state without its oldest input, and the write is read back by
`memRead_memWriteCells` or stops at an address outside DMEM. -/
theorem hostWritesDmem : Obligations.HostWritesDmem := by
  intro s cells rest hinputs
  rw [step_cons hinputs, runInput]
  refine ⟨fun inside => ?_, fun ⟨c, hc, hout⟩ => ?_⟩
  · exact ⟨_, runDmemWrite_of_hasByte fun c hc => decide_eq_true (inside c hc), memRead_memWriteCells s.dmem cells⟩
  · obtain ⟨a, hfault, ha⟩ := runDmemWrite_fault (s := { s with inputs := rest })
      ⟨c, hc, decide_eq_false (Nat.not_lt.mpr hout)⟩
    exact ⟨a, hfault, Nat.not_lt.mp (of_decide_eq_false ha)⟩

/-- Settles O53, by the frame of DMEM: STB names one address, ENC and DEC the destination region, LDB nothing. -/
theorem storesStayInTheirBytes : Obligations.StoresStayInTheirBytes := by
  intro s t
  refine ⟨fun ga addr h a ha => ?stb, fun h a ha => ?enc, fun h a ha => ?dec, fun gd addr h a => ?ldb⟩
  case stb => exact exec_dmem_frame h fun mem => ha (List.mem_singleton.mp mem)
  case enc => exact exec_dmem_frame h (not_mem_region_of_outsideDestination ha)
  case dec => exact exec_dmem_frame h (not_mem_region_of_outsideDestination ha)
  case ldb => exact exec_dmem_frame h List.not_mem_nil

end Sys2Proof.Machine
end

section
/-! SUPPORT. The encoding: a command word and its five fields determine each other, the decoder inverts the encoder on fields, and the
opcode table is read field by field (rules R70, R71, R72, R77, R79, R82 of 30_encoding.md). -/

namespace Sys2Proof

/-! ## Words and fields -/

/-- A word is made of its own five fields (rule R70). -/
theorem wordOf_fieldsOf (w : Command) : wordOf (fieldsOf w) = w := by
  have join (start len : Nat) {len' : Nat} :
      w.extractLsb' (start + len) len' ++ w.extractLsb' start len = w.extractLsb' start (len' + len) :=
    BitVec.extractLsb'_append_extractLsb'_eq_extractLsb' rfl
  calc w.extractLsb' 56 8 ++ w.extractLsb' 48 8 ++ w.extractLsb' 40 8 ++ w.extractLsb' 32 8 ++ w.extractLsb' 0 32
    _ = w.extractLsb' 48 16 ++ w.extractLsb' 40 8 ++ w.extractLsb' 32 8 ++ w.extractLsb' 0 32 := by rw [join 48 8]
    _ = w.extractLsb' 40 24 ++ w.extractLsb' 32 8 ++ w.extractLsb' 0 32 := by rw [join 40 8]
    _ = w.extractLsb' 32 32 ++ w.extractLsb' 0 32 := by rw [join 32 8]
    _ = w := BitVec.extractLsb'_append_extractLsb'

theorem wordOf_inj {f f' : Fields} : wordOf f = wordOf f' ↔ f = f' :=
  ⟨fun h => by rw [← fieldsOf_wordOf f, h, fieldsOf_wordOf], congrArg wordOf⟩

/-! ## The decoder and the encoder on fields -/

theorem ifReservedZero_eq_ok {reservedZero : Bool} {i j : Instr} :
    ifReservedZero reservedZero i = .ok j ↔ reservedZero = true ∧ i = j := by
  cases reservedZero <;> simp [ifReservedZero]

/-- A value whose high bits are zero is its low bits, zero-extended. -/
theorem zero_append_low {m n : Nat} {x : BitVec (m + n)} (high : x.extractLsb' n m = 0#m) : 0#m ++ x.extractLsb' 0 n = x := by
  rw [← high, BitVec.extractLsb'_append_extractLsb']

/-- The decoder reads every operand back from its place (rules R71, R82). Only CFG, MWRI, MGET and MPUT divide `imm` further. -/
theorem decodeFields_encodeFields (i : Instr) : decodeFields (encodeFields i) = .ok i := by
  cases i
  case cfg k n =>
    exact ifReservedZero_eq_ok.mpr
      ⟨rfl, congrArg₂ Instr.cfg BitVec.extractLsb'_append_eq_right BitVec.extractLsb'_append_eq_left⟩
  case mwri | mget | mput =>
    exact ifReservedZero_eq_ok.mpr
      ⟨beq_iff_eq.mpr BitVec.extractLsb'_append_eq_left, congrArg _ BitVec.extractLsb'_append_eq_right⟩
  all_goals rfl

/-- Decoding is strict (rule R77): an operand takes every bit of its field, and every other bit is checked to be zero. -/
theorem encodeFields_of_decodeFields {f : Fields} {i : Instr} (h : decodeFields f = .ok i) : encodeFields i = f := by
  obtain ⟨op, a, b, c, imm⟩ := f
  dsimp only [decodeFields] at h
  split at h
  case h_23 => cases h -- an undefined opcode
  all_goals
    obtain ⟨reserved, rfl⟩ := ifReservedZero_eq_ok.mp h
    simp only [Bool.and_eq_true, beq_iff_eq] at reserved
  case h_3 => -- CFG
    have halves : imm.extractLsb' 16 16 ++ imm.extractLsb' 0 16 = imm := BitVec.extractLsb'_append_extractLsb'
    simp [encodeFields, reserved, halves]
  -- MWRI, MGET, MPUT
  case h_16 | h_17 | h_18 => exact congrArg (Fields.mk _ a b c) (zero_append_low reserved)
  all_goals simp [encodeFields, reserved]

/-- The words that decode are the words of the commands (rules R77, R79). -/
theorem decode_eq_ok_iff {w : Command} {i : Instr} : decode w = .ok i ↔ encode i = w := by
  constructor
  · intro h
    rw [encode, encodeFields_of_decodeFields h, wordOf_fieldsOf]
  · rintro rfl
    rw [encode, decode_wordOf, decodeFields_encodeFields]

/-! ## The opcode table, field by field -/

/-- The mask of a command's row (rules R71, R72): the opcode and the reserved fields are set, the operands' bits are clear. -/
def maskFields : Instr → Fields
  | .nop | .srst | .enc | .dec => ⟨BitVec.allOnes 8, BitVec.allOnes 8, BitVec.allOnes 8, BitVec.allOnes 8, BitVec.allOnes 32⟩
  | .cfg _ _ => ⟨BitVec.allOnes 8, BitVec.allOnes 8, BitVec.allOnes 8, BitVec.allOnes 8, 0⟩
  | .crw _ _ | .ldb _ _ | .stb _ _ => ⟨BitVec.allOnes 8, 0, BitVec.allOnes 8, BitVec.allOnes 8, 0⟩
  | .crr _ | .pidxr _ | .gfrd _ => ⟨BitVec.allOnes 8, 0, BitVec.allOnes 8, BitVec.allOnes 8, BitVec.allOnes 32⟩
  | .pidxw _ _ | .gfldi _ _ | .gfinv _ _ | .minv _ _ => ⟨BitVec.allOnes 8, 0, 0, BitVec.allOnes 8, BitVec.allOnes 32⟩
  | .gfadd _ _ _ | .gfmul _ _ _ | .mdim _ _ _ | .mmul _ _ _ => ⟨BitVec.allOnes 8, 0, 0, 0, BitVec.allOnes 32⟩
  | .mwri _ _ _ _ => ⟨BitVec.allOnes 8, 0, 0, 0, (BitVec.allOnes 24 ++ 0#8 : BitVec 32)⟩
  | .mget _ _ _ _ | .mput _ _ _ _ => ⟨BitVec.allOnes 8, 0, 0, 0, (BitVec.allOnes 28 ++ 0#4 : BitVec 32)⟩

theorem mask_opcodeRow (i : Instr) : (opcodeRow i).mask = wordOf (maskFields i) := by
  cases i <;> simp only [opcodeRow, maskFields] <;> decide

theorem pattern_opcodeRow (i : Instr) : (opcodeRow i).pattern = wordOf ⟨(encodeFields i).op, 0, 0, 0, 0⟩ := by
  cases i <;> simp only [opcodeRow, encodeFields] <;> decide

/-- A word is of a command's row when it has the command's opcode and nothing in the reserved fields (rules R71, R72). -/
theorem and_mask_eq_pattern_iff {w : Command} {i : Instr} :
    w &&& (opcodeRow i).mask = (opcodeRow i).pattern ↔
      (fieldsOf w).op &&& (maskFields i).op = (encodeFields i).op ∧ (fieldsOf w).a &&& (maskFields i).a = 0
        ∧ (fieldsOf w).b &&& (maskFields i).b = 0 ∧ (fieldsOf w).c &&& (maskFields i).c = 0
        ∧ (fieldsOf w).imm &&& (maskFields i).imm = 0 := by
  rw [mask_opcodeRow, pattern_opcodeRow, ← wordOf_fieldsOf w, Laws.OpcodeTable.wordOf_and, wordOf_inj, Fields.mk.injEq,
    fieldsOf_wordOf]

/-- A mask of the high bits that leaves nothing says that the high bits are zero. -/
theorem high_eq_zero {m n : Nat} {x : BitVec (m + n)} (h : x &&& (BitVec.allOnes m ++ 0#n) = 0#(m + n)) :
    x.extractLsb' n m = 0#m := by
  have := congrArg (BitVec.extractLsb' n m) h
  rw [BitVec.extractLsb'_and, BitVec.extractLsb'_append_eq_left, BitVec.and_allOnes] at this
  simpa using this

/-- A word of a command's row decodes to a command of that row, with the operands the word holds (rule R72). -/
theorem exists_decode_of_row {w : Command} (i : Instr) (h : w &&& (opcodeRow i).mask = (opcodeRow i).pattern) :
    ∃ j, decode w = .ok j ∧ opcodeRow j = opcodeRow i := by
  rw [and_mask_eq_pattern_iff] at h
  rw [decode]
  generalize fieldsOf w = f at h
  obtain ⟨op, a, b, c, imm⟩ := f
  obtain ⟨hop, ha, hb, hc, himm⟩ := h
  cases i
  all_goals
    simp only [maskFields, encodeFields, BitVec.and_allOnes] at hop ha hb hc himm
    subst_vars
  case mwri | mget | mput =>
    exact ⟨_, ifReservedZero_eq_ok.mpr ⟨beq_iff_eq.mpr (high_eq_zero himm), rfl⟩, rfl⟩
  all_goals exact ⟨_, rfl, rfl⟩

/-- The word of a command is of the command's own row (rule R72). -/
theorem encode_and_mask (i : Instr) : encode i &&& (opcodeRow i).mask = (opcodeRow i).pattern :=
  match i with
  | .nop => Laws.OpcodeTable.nop
  | .srst => Laws.OpcodeTable.srst
  | .cfg k n => Laws.OpcodeTable.cfg k n
  | .crw cr value => Laws.OpcodeTable.crw cr value
  | .crr cr => Laws.OpcodeTable.crr cr
  | .pidxw slot index => Laws.OpcodeTable.pidxw slot index
  | .pidxr slot => Laws.OpcodeTable.pidxr slot
  | .gfldi gd value => Laws.OpcodeTable.gfldi gd value
  | .gfadd gd ga gb => Laws.OpcodeTable.gfadd gd ga gb
  | .gfmul gd ga gb => Laws.OpcodeTable.gfmul gd ga gb
  | .gfinv gd ga => Laws.OpcodeTable.gfinv gd ga
  | .gfrd ga => Laws.OpcodeTable.gfrd ga
  | .ldb gd addr => Laws.OpcodeTable.ldb gd addr
  | .stb ga addr => Laws.OpcodeTable.stb ga addr
  | .mdim md rows cols => Laws.OpcodeTable.mdim md rows cols
  | .mwri md row col value => Laws.OpcodeTable.mwri md row col value
  | .mget ma row col gd => Laws.OpcodeTable.mget ma row col gd
  | .mput md row col ga => Laws.OpcodeTable.mput md row col ga
  | .mmul md ma mb => Laws.OpcodeTable.mmul md ma mb
  | .minv md ma => Laws.OpcodeTable.minv md ma
  | .enc => Laws.OpcodeTable.enc
  | .dec => Laws.OpcodeTable.dec

/-- Every command's row is in the table, which lists one command of each row. -/
theorem opcodeRow_mem (i : Instr) : opcodeRow i ∈ opcodeTable := by
  cases i <;> simp [opcodeTable, commandOfEachRow, opcodeRow]

/-- A word that decodes is of the row of its command (rule R72). -/
theorem and_mask_of_decode {w : Command} {i : Instr} (h : decode w = .ok i) :
    w &&& (opcodeRow i).mask = (opcodeRow i).pattern :=
  decode_eq_ok_iff.mp h ▸ encode_and_mask i

/-- A word of a row of the table decodes to a command of that row (rule R72). -/
theorem exists_decode_of_mem {w : Command} {row : OpcodeRow} (mem : row ∈ opcodeTable) (h : w &&& row.mask = row.pattern) :
    ∃ i, decode w = .ok i ∧ opcodeRow i = row := by
  obtain ⟨i, -, rfl⟩ := List.mem_map.mp mem
  exact exists_decode_of_row i h

/-! ## The statements -/

/-- Settles O1: the words that decode are the words of the commands. -/
theorem decodeOfEncode : Obligations.DecodeOfEncode := fun _ => decode_eq_ok_iff.mpr rfl

/-- Settles O2: decoding checks every bit that is no operand's. -/
theorem encodeOfDecode : Obligations.EncodeOfDecode := fun _ _ => decode_eq_ok_iff.mp

/-- Settles O3: a word of a row decodes to a command of the row, so two rows of one word are the row of one command. -/
theorem decodeFollowsOpcodeTable : Obligations.DecodeFollowsOpcodeTable := by
  refine fun w => ⟨fun i hi => ⟨opcodeRow_mem i, and_mask_of_decode hi⟩, fun _ => exists_decode_of_mem, ?unique⟩
  intro row hrow other hother hw hw'
  obtain ⟨i, hi, rfl⟩ := exists_decode_of_mem hrow hw
  obtain ⟨j, hj, rfl⟩ := exists_decode_of_mem hother hw'
  rw [Except.ok.inj (hi.symm.trans hj)]

/-- Settles O4: the ten words, decoded. -/
theorem specWordsDecode : Obligations.SpecWordsDecode := by
  refine ⟨?_, ?_, ?_, ?_, ?_, ?_, ?_, ?_, ?_, ?_⟩ <;> decide

end Sys2Proof
end

section
/-! SUPPORT. The response of a command (rules R73, R75, R76, R78, R281 to R283): which commands are refused for their operands, which
statuses the others answer, and that a failure leaves no trace but the response and the count. -/

namespace Sys2Proof.Machine

open Sys2Proof.Claims

/-! ## The operands the table of rule R78 accepts are the ones the model finds -/

theorem greg_eq_isSome (a : Byte) : WellFormed.greg a = (gregOf a).isSome := by
  unfold WellFormed.greg gregOf
  split <;> simp <;> omega

theorem bank_eq_isSome (a : Byte) : WellFormed.bank a = (bankOf a).isSome := by
  unfold WellFormed.bank bankOf
  split <;> simp <;> omega

theorem destBank_eq_isSome (a : Byte) : WellFormed.destBank a = (destBankOf a).isSome := by
  rw [Bool.eq_iff_iff, Option.isSome_iff_ne_none, ne_eq, destBankOf_eq_none, WellFormed.destBank, decide_eq_true_iff]
  bv_omega

/-- CRR is accepted for the numbers of the nine control registers (rules R30, R78). -/
theorem wellFormed_crr (cr : Byte) (s : State) : (Instr.crr cr).wellFormed = (crRead cr s).isSome := by
  unfold crRead
  split
  case h_10 =>
    simp only [imp_false] at *
    simp only [Instr.wellFormed, Option.isSome_none, decide_eq_false_iff_not]
    bv_omega
  all_goals rfl

/-- CRW is accepted for the four registers it may write, and for PCNT with a value that fits (rules R34, R78). -/
theorem wellFormed_crw (cr : Byte) (v : Word32) (s : State) : (Instr.crw cr v).wellFormed = (crWrite cr v s).isSome := by
  unfold crWrite
  split
  case h_4 => split <;> simp_all [Instr.wellFormed]
  case h_5 =>
    simp only [imp_false] at *
    have other : ¬ (3 ≤ cr.toNat ∧ cr.toNat ≤ 6) := by bv_omega
    simp [Instr.wellFormed, other]
  all_goals rfl

/-! ## Responses

`Answers` says that a command fails or completes; `Responds` says with which status, and for which operands with BAD_OPERAND. -/

/-- The responses of command `i` (rules R78, R282, R283): BAD_OPERAND when its operands are not `accepted`, and otherwise one of the
other statuses the table gives it, with `RVAL = 0` where that status has no information word. -/
inductive Responds (i : Instr) (accepted : Prop) (s : State) : Res → Prop where
  | refused (h : ¬ accepted) : Responds i accepted s (badOperand s)
  | responded {t : State} (h : accepted) (listed : t.status ∈ statusesOf i) (other : t.status ≠ .badOperand)
      (info : t.status ∉ statusesWithInfo → t.rval = 0) : Responds i accepted s (.next t)

section

variable {i : Instr} {s : State}

theorem Responds.raise {status : Status} (info : Word32) (listed : status ∈ statusesOf i := by simp [statusesOf])
    (other : status ≠ .badOperand := by simp) (zero : status ∉ statusesWithInfo → info = 0 := by simp [statusesWithInfo]) :
    Responds i True s (raise status info s) :=
  .responded trivial listed other zero

theorem Responds.complete (v : Word32) (u : State) (listed : .ok ∈ statusesOf i := by simp [statusesOf]) :
    Responds i True s (complete v u) :=
  .responded trivial listed (by simp) (by simp [statusesWithInfo])

theorem Responds.withOperand {α : Type} {operand : Option α} {rest : α → Res} {accepted : Prop}
    (h : ∀ x, Responds i accepted s (rest x)) :
    Responds i (operand.isSome = true ∧ accepted) s (withOperand operand s rest) := by
  cases operand with
  | none => exact .refused (by simp)
  | some x => simpa using h x

theorem Responds.ite {c : Prop} [Decidable c] {r r' : Res} {accepted : Prop} (h : Responds i accepted s r)
    (h' : Responds i accepted s r') : Responds i accepted s (if c then r else r') := by
  split
  · exact h
  · exact h'

theorem Responds.withCell {x : MatrixVal} {row col : Byte} {rest : Res} (h : Responds i True s rest)
    (listed : .dimError ∈ statusesOf i := by simp [statusesOf]) : Responds i True s (withCell x row col s rest) :=
  .ite h (.raise 0 listed)

/-- A command is accepted when every operand it looks up is found: the table of rule R78, row by row. -/
theorem Responds.of_operands {accepted : Prop} {r : Res} (h : Responds i accepted s r)
    (operands : accepted ↔ i.wellFormed = true := by
      simp [Instr.wellFormed, greg_eq_isSome, bank_eq_isSome, destBank_eq_isSome, and_assoc]) :
    Responds i (WellFormed i) s r := by
  rwa [propext operands] at h

end

section

variable (s : State)

theorem responds_cfg (k n : BitVec 16) : Responds (.cfg k n) True s (execCfg k n s) := by
  unfold execCfg
  split
  · exact .raise _
  · exact .complete 0 _

theorem responds_gfinv (gd ga : Byte) :
    Responds (.gfinv gd ga) ((gregOf gd).isSome ∧ (gregOf ga).isSome ∧ True) s (execGfinv gd ga s) :=
  .withOperand fun _ => .withOperand fun _ => by
    split
    · exact .raise 0
    · exact .complete _ _

theorem responds_minv (md ma : Byte) :
    Responds (.minv md ma) ((destBankOf md).isSome ∧ (bankOf ma).isSome ∧ True) s (execMinv md ma s) :=
  .withOperand fun _ => .withOperand fun _ => .ite
    (by
      split
      · exact .raise _
      · exact .complete 0 _)
    (.raise 0)

/-- The index checks raise one of two statuses (rule R201). -/
theorem checkIndices_status {status : Status} {info : Word32} (h : s.checkIndices = some (status, info)) :
    status = .dupOrRangeIndex ∨ status = .insufficientShards := by
  unfold State.checkIndices at h
  split at h
  · cases h
    exact .inl rfl
  · split at h
    · cases h
      exact .inr rfl
    · simp at h

theorem responds_dec : Responds .dec True s (execDec s) := by
  unfold execDec
  split
  · split
    · next hc =>
      rcases checkIndices_status s hc with rfl | rfl
      · exact .raise _
      · exact .raise _
    · split
      · split
        · exact .raise _
        · exact .complete 0 _
      · exact .raise 0
  · exact .raise 0

/-- How every command responds (rules R75, R78, R282, R283). -/
theorem exec_responds (i : Instr) : Responds i (WellFormed i) s (exec i s) := by
  cases i with
  | nop => exact .of_operands (.complete 0 s)
  | srst => exact .responded rfl (by simp [statusesOf]) (by simp) (by simp)
  | cfg k n => exact .of_operands (responds_cfg s k n)
  | crw cr v =>
    exact .of_operands (.withOperand fun s' => .complete 0 s') (by rw [and_true, wellFormed_crw cr v s])
  | crr cr => exact .of_operands (.withOperand fun v => .complete v s) (by rw [and_true, wellFormed_crr cr s])
  | pidxw slot v => exact .of_operands (.complete 0 _)
  | pidxr slot => exact .of_operands (.complete _ s)
  | gfldi gd v => exact .of_operands (.withOperand fun _ => .complete _ _)
  | gfadd gd ga gb =>
    exact .of_operands (.withOperand fun _ => .withOperand fun _ => .withOperand fun _ => .complete _ _)
  | gfmul gd ga gb =>
    exact .of_operands (.withOperand fun _ => .withOperand fun _ => .withOperand fun _ => .complete _ _)
  | gfinv gd ga => exact .of_operands (responds_gfinv s gd ga)
  | gfrd ga => exact .of_operands (.withOperand fun _ => .complete _ s)
  | ldb gd addr => exact .of_operands (.withOperand fun _ => .ite (.complete _ _) (.raise 0))
  | stb ga addr => exact .of_operands (.withOperand fun _ => .ite (.complete 0 _) (.raise 0))
  | mdim md rows cols => exact .of_operands (.withOperand fun _ => .complete 0 _)
  | mwri md row col v => exact .of_operands (.withOperand fun _ => .withCell (.complete 0 _))
  | mget ma row col gd => exact .of_operands (.withOperand fun _ => .withCell (.complete _ _))
  | mput md row col ga => exact .of_operands (.withOperand fun _ => .withCell (.complete 0 _))
  | mmul md ma mb =>
    exact .of_operands (.withOperand fun _ => .withOperand fun _ => .withOperand fun _ => .ite (.complete 0 _) (.raise 0))
  | minv md ma => exact .of_operands (responds_minv s md ma)
  | enc => exact .of_operands (.ite (.ite (.complete 0 _) (.raise 0)) (.raise 0))
  | dec => exact .of_operands (responds_dec s)

end

section

variable {i : Instr} {s t : State}

/-- The response of a command: BAD_OPERAND when an operand is refused, and otherwise one of its other statuses (rules R78, R282,
R283). -/
theorem exec_response (h : exec i s = .next t) :
    (¬ WellFormed i ∧ t = s.respond .badOperand 0)
      ∨ WellFormed i ∧ t.status ∈ statusesOf i ∧ t.status ≠ .badOperand ∧ (t.status ∉ statusesWithInfo → t.rval = 0) := by
  have responds := exec_responds s i
  generalize exec i s = r at h responds
  cases responds with
  | refused hi => exact .inl ⟨hi, raise_next.mp h⟩
  | responded hi listed other info =>
    cases h
    exact .inr ⟨hi, listed, other, info⟩

/-- Rule R283 gives BAD_OPERAND to every command that rule R78 can refuse. -/
theorem badOperand_mem_statusesOf (h : ¬ WellFormed i) : .badOperand ∈ statusesOf i := by
  cases i <;> simp_all [statusesOf, Instr.wellFormed]

/-- ILLEGAL_COMMAND is the decoder's alone (rules R77, R283). -/
theorem illegalCommand_not_mem_statusesOf (i : Instr) : .illegalCommand ∉ statusesOf i := by
  cases i <;> simp [statusesOf]

/-- Every response of a command is one its rows in the tables of rules R282 and R283 give. -/
theorem exec_status (h : exec i s = .next t) : t.status ∈ statusesOf i ∧ (t.status ∉ statusesWithInfo → t.rval = 0) := by
  rcases exec_response h with ⟨illFormed, rfl⟩ | ⟨-, listed, -, info⟩
  · exact ⟨badOperand_mem_statusesOf illFormed, fun _ => rfl⟩
  · exact ⟨listed, info⟩

/-- A command that fails changes the response and the count alone (rule R76). -/
theorem exec_failure (h : exec i s = .next t) (failure : t.status ≠ .ok) :
    t = { s with status := t.status, rval := t.rval, ccnt := t.ccnt } := by
  by_cases hi : i = .srst
  · subst hi
    cases h
    exact absurd rfl failure
  · rcases exec_cases h hi with ⟨_, _, -, rfl⟩ | ⟨_, _, -, rfl⟩
    · rfl
    · exact absurd rfl failure

theorem runCommand_ok {w : Command} (hw : decode w = .ok i) : runCommand w s = exec i s := by
  rw [runCommand, hw]

theorem runCommand_error {w : Command} {e : DecodeError} (hw : decode w = .error e) : runCommand w s = illegalCommand s := by
  rw [runCommand, hw]

/-- No command reads `STATUS` or `RVAL`, and every command writes both (rules R37, R76). -/
theorem exec_ignores_response (i : Instr) (s : State) (status : Status) (rval : Word32) :
    exec i { s with status := status, rval := rval } = exec i s := by
  cases i
  case crw cr v =>
    dsimp only [exec, execCrw, crWrite]
    split
    case h_4 => split <;> rfl
    all_goals rfl
  all_goals rfl

end

/-! ## The statements -/

/-- Settles O8: the refused commands are the ones that do not find an operand. -/
theorem badOperandExactlyWhenRefused : Obligations.BadOperandExactlyWhenRefused := by
  intro i s
  refine ⟨fun illFormed => ?_, fun wellFormed t ht => ?_⟩
  · obtain ⟨t, ht⟩ := exec_total i s
    rcases exec_response ht with ⟨-, rfl⟩ | ⟨wellFormed, -⟩
    · exact ht
    · exact absurd wellFormed illFormed
  · rcases exec_response ht with ⟨illFormed, -⟩ | ⟨-, -, other, -⟩
    · exact absurd wellFormed illFormed
    · exact other

/-- Settles O12: the codes are the table's, and every command's response is one of its row. -/
theorem statusesOfEachCommand : Obligations.StatusesOfEachCommand :=
  ⟨rfl, fun _ _ _ ht =>
    ⟨(exec_status ht).1, (exec_status ht).2, BitVec.extractLsb'_append_eq_left, BitVec.extractLsb'_append_eq_right⟩⟩

/-- Settles O9: a failing command and an illegal word leave the pre-state but for the response and the count, and no command reads
`STATUS` or `RVAL`. -/
theorem failureIsAtomic : Obligations.FailureIsAtomic := by
  refine ⟨fun _ _ _ => exec_failure, fun w s t ht failure => ?_, exec_ignores_response⟩
  rw [step_presentNext] at ht
  cases hw : decode w with
  | ok i =>
    rw [runCommand_ok hw] at ht
    exact exec_failure ht failure
  | error e =>
    rw [runCommand_error hw] at ht
    cases ht
    rfl

/-- Settles O6: the words of a row are the ones that decode, and no command has ILLEGAL_COMMAND among its statuses. -/
theorem illegalCommandExactlyForOtherWords : Obligations.IllegalCommandExactlyForOtherWords := by
  refine fun s w => ⟨fun noRow => ?_, fun ⟨row, mem, hw⟩ t ht => ?_⟩
  · rw [step_presentNext]
    cases hw : decode w with
    | ok i => exact absurd (and_mask_of_decode hw) (noRow _ (opcodeRow_mem i))
    | error e => exact runCommand_error hw
  · obtain ⟨i, hi, -⟩ := exists_decode_of_mem mem hw
    rw [step_presentNext, runCommand_ok hi] at ht
    exact fun illegal => illegalCommand_not_mem_statusesOf i (illegal ▸ (exec_status ht).1)

end Sys2Proof.Machine
end

section
/-! SUPPORT. The bytes as the residues of polynomials over GF(2) modulo `x^8 + x^4 + x^3 + x + 1` (rules R100 to R104 of
41_gf256_alu.md). A byte is determined by its residue, `gf_add` and `gf_mul` are the sum and the product of residues, and the nonzero
bytes are the powers of `0x03`; the laws of the field are then those of the ring of residues. -/

namespace Sys2Proof.Machine

open Sys2Proof.Claims Polynomial

/-! ## The polynomial of a byte -/

theorem polynomialOf_coeff (a : Byte) (i : Nat) : (polynomialOf a).coeff i = if a.getLsbD i then 1 else 0 := by
  have term (j : Nat) : (if a.getLsbD j then (X : (ZMod 2)[X]) ^ j else 0).coeff i = if i = j ∧ a.getLsbD i then 1 else 0 := by
    by_cases hij : i = j
    · subst hij; split <;> simp_all
    · split <;> simp [coeff_X_pow, hij]
  rw [polynomialOf, finsetSum_coeff, Finset.sum_congr rfl fun j _ => term j]
  by_cases hi : i < 8
  · simp [ite_and, hi]
  · simp [BitVec.getLsbD_of_ge a i (by omega)]

theorem polynomialOf_degree_lt (a : Byte) : (polynomialOf a).degree < 8 :=
  (degree_lt_iff_coeff_zero _ 8).mpr fun i hi => by simp [polynomialOf_coeff, BitVec.getLsbD_of_ge a i hi]

theorem polynomialOf_injective : Function.Injective polynomialOf := by
  intro a b h
  refine BitVec.eq_of_getLsbD_eq fun i _ => ?_
  have hcoeff := congrArg (coeff · i) h
  simp only [polynomialOf_coeff] at hcoeff
  cases ha : a.getLsbD i <;> cases hb : b.getLsbD i <;> simp_all

@[simp] theorem polynomialOf_zero : polynomialOf 0x00#8 = 0 := by simp [polynomialOf]

@[simp] theorem polynomialOf_one : polynomialOf 0x01#8 = 1 := by simp [polynomialOf]

theorem polynomialOf_gfAdd (a b : Byte) : polynomialOf (gfAdd a b) = polynomialOf a + polynomialOf b := by
  ext i
  rw [coeff_add, polynomialOf_coeff, polynomialOf_coeff, polynomialOf_coeff, gfAdd, BitVec.getLsbD_xor]
  cases a.getLsbD i <;> cases b.getLsbD i <;> decide

/-- Shifting a byte left multiplies by `x` and drops the coefficient of `x^8`. -/
theorem X_mul_polynomialOf (a : Byte) :
    X * polynomialOf a = polynomialOf (a <<< 1) + if a.getLsbD 7 then X ^ 8 else 0 := by
  ext i
  cases i with
  | zero => cases h : a.getLsbD 7 <;> simp [polynomialOf_coeff]
  | succ i =>
    rw [coeff_X_mul, coeff_add, polynomialOf_coeff, polynomialOf_coeff, BitVec.getLsbD_shiftLeft]
    have carry : (if a.getLsbD 7 then (X : (ZMod 2)[X]) ^ 8 else 0).coeff (i + 1) = if i = 7 ∧ a.getLsbD 7 then 1 else 0 := by
      cases a.getLsbD 7 <;> simp [coeff_X_pow]
    rw [carry]
    rcases lt_trichotomy i 7 with hi | rfl | hi
    · simp [hi.ne, Nat.succ_lt_succ hi]
    · simp
    · simp [BitVec.getLsbD_of_ge a i hi, hi.ne']

theorem fieldPolynomial_eq : fieldPolynomial = X ^ 8 + polynomialOf 0x1B#8 := by
  simp [fieldPolynomial, polynomialOf, Finset.sum_range_succ]
  ring

theorem fieldPolynomial_degree : fieldPolynomial.degree = 8 := by
  rw [fieldPolynomial]
  compute_degree!

/-! ## The residue of a byte -/

/-- The polynomial of a byte modulo the field polynomial (rule R101). -/
noncomputable def residue (a : Byte) : AdjoinRoot fieldPolynomial := AdjoinRoot.mk fieldPolynomial (polynomialOf a)

/-- Two bytes with the same residue are equal: their polynomials differ by a multiple of degree below 8. -/
theorem residue_injective : Function.Injective residue := by
  intro a b h
  have hdvd : fieldPolynomial ∣ polynomialOf a - polynomialOf b := AdjoinRoot.mk_eq_mk.mp h
  have hdeg : (polynomialOf a - polynomialOf b).degree < fieldPolynomial.degree :=
    fieldPolynomial_degree ▸ (degree_sub_le _ _).trans_lt (max_lt (polynomialOf_degree_lt a) (polynomialOf_degree_lt b))
  exact polynomialOf_injective (sub_eq_zero.mp (eq_zero_of_dvd_of_degree_lt hdvd hdeg))

@[simp] theorem residue_zero : residue 0x00#8 = 0 := by simp [residue]

@[simp] theorem residue_one : residue 0x01#8 = 1 := by simp [residue]

@[simp] theorem residue_gfAdd (a b : Byte) : residue (gfAdd a b) = residue a + residue b := by
  simp [residue, polynomialOf_gfAdd]

theorem residue_eq_sum (a : Byte) :
    residue a = ∑ i ∈ Finset.range 8, if a.getLsbD i then AdjoinRoot.root fieldPolynomial ^ i else 0 := by
  simp only [residue, polynomialOf, map_sum, apply_ite, map_pow, AdjoinRoot.mk_X, map_zero]

theorem residue_gfTimesX (a : Byte) : residue (gfTimesX a) = AdjoinRoot.root fieldPolynomial * residue a := by
  rw [residue, residue, ← AdjoinRoot.mk_X, ← map_mul, X_mul_polynomialOf, gfTimesX]
  split
  · have reduced : AdjoinRoot.mk fieldPolynomial (polynomialOf 0x1B#8) = AdjoinRoot.mk fieldPolynomial (X ^ 8) :=
      AdjoinRoot.mk_eq_mk.mpr (by rw [CharTwo.sub_eq_add, add_comm, ← fieldPolynomial_eq])
    rw [← gfAdd, polynomialOf_gfAdd, map_add, map_add, reduced]
  · rw [add_zero]

/-- The loop of rule R101 after `n` rounds: the product of `a` and the first `n` bits of `b`, and `x^n * a`. -/
theorem residue_gfMulRounds (a b : Byte) (n : Nat) :
    residue ((List.range n).foldl (gfMulRound b) (0x00, a)).1
        = residue a * ∑ i ∈ Finset.range n, (if b.getLsbD i then AdjoinRoot.root fieldPolynomial ^ i else 0)
      ∧ residue ((List.range n).foldl (gfMulRound b) (0x00, a)).2 = AdjoinRoot.root fieldPolynomial ^ n * residue a := by
  induction n with
  | zero => simp
  | succ n ih =>
    obtain ⟨product, multiple⟩ := ih
    rw [List.range_succ, List.foldl_append, List.foldl_cons, List.foldl_nil, gfMulRound]
    refine ⟨?_, by rw [residue_gfTimesX, multiple, pow_succ']; ring⟩
    rw [Finset.sum_range_succ, mul_add, ← product]
    split
    · rw [← gfAdd, residue_gfAdd, multiple, mul_comm (residue a)]
    · rw [mul_zero, add_zero]

@[simp] theorem residue_gfMul (a b : Byte) : residue (gfMul a b) = residue a * residue b := by
  rw [gfMul, (residue_gfMulRounds a b 8).1, residue_eq_sum b]

@[simp] theorem residue_gfPow (a : Byte) (j : Nat) : residue (gfPow a j) = residue a ^ j := by
  induction j with
  | zero => simp [gfPow]
  | succ j ih => rw [gfPow, residue_gfMul, ih, pow_succ]

/-! ## The laws of the field -/

theorem gfAdd_comm (a b : Byte) : gfAdd a b = gfAdd b a := BitVec.xor_comm a b

theorem gfAdd_assoc (a b c : Byte) : gfAdd (gfAdd a b) c = gfAdd a (gfAdd b c) := BitVec.xor_assoc a b c

@[simp] theorem gfAdd_zero (a : Byte) : gfAdd a 0x00#8 = a := BitVec.xor_zero

@[simp] theorem gfAdd_self (a : Byte) : gfAdd a a = 0x00#8 := BitVec.xor_self

theorem gfMul_comm (a b : Byte) : gfMul a b = gfMul b a := residue_injective (by simp [mul_comm])

theorem gfMul_assoc (a b c : Byte) : gfMul (gfMul a b) c = gfMul a (gfMul b c) := residue_injective (by simp [mul_assoc])

theorem gfMul_gfAdd (a b c : Byte) : gfMul a (gfAdd b c) = gfAdd (gfMul a b) (gfMul a c) :=
  residue_injective (by simp [mul_add])

@[simp] theorem gfMul_one (a : Byte) : gfMul a 0x01#8 = a := residue_injective (by simp)

@[simp] theorem one_gfMul (a : Byte) : gfMul 0x01#8 a = a := residue_injective (by simp)

@[simp] theorem gfMul_zero (a : Byte) : gfMul a 0x00#8 = 0x00#8 := residue_injective (by simp)

@[simp] theorem zero_gfMul (a : Byte) : gfMul 0x00#8 a = 0x00#8 := residue_injective (by simp)

/-! ## Inverses -/

/-- The byte `0x03` generates the nonzero bytes: its 255th power is `0x01`, and no power at 255 over a prime factor is. -/
theorem orderOf_residue_three : orderOf (residue 0x03#8) = 255 := by
  have power_eq_one_iff (j : Nat) : residue 0x03#8 ^ j = 1 ↔ gfPow 0x03#8 j = 0x01#8 := by
    rw [← residue_gfPow, ← residue_one, residue_injective.eq_iff]
  refine orderOf_eq_of_pow_and_pow_div_prime (by decide) ((power_eq_one_iff 255).mpr (by decide +kernel)) fun p hp hdvd => ?_
  rw [ne_eq, power_eq_one_iff]
  have hfactor : p = 3 ∨ p = 5 ∨ p = 17 := by
    rw [show 255 = 3 * (5 * 17) by rfl, hp.dvd_mul, hp.dvd_mul] at hdvd
    simpa only [Nat.prime_dvd_prime_iff_eq hp, Nat.prime_three, Nat.prime_five, (by norm_num : Nat.Prime 17)] using hdvd
  rcases hfactor with rfl | rfl | rfl <;> decide +kernel

theorem residue_gfPow_three_pow_255 (j : Nat) : residue (gfPow 0x03#8 j) ^ 255 = 1 := by
  rw [residue_gfPow, pow_right_comm, ← orderOf_residue_three, pow_orderOf_eq_one, one_pow]

theorem gfPow_three_ne_zero (j : Nat) : gfPow 0x03#8 j ≠ 0x00#8 := by
  intro h
  have hpow := residue_gfPow_three_pow_255 j
  rw [h, residue_zero, zero_pow (by decide), ← residue_zero, ← residue_one] at hpow
  exact absurd (residue_injective hpow) (by decide)

theorem gfPow_three_injOn : Set.InjOn (gfPow 0x03#8) (Finset.range 255) := by
  intro i hi j hj h
  have hresidue := congrArg residue h
  rw [residue_gfPow, residue_gfPow] at hresidue
  rw [Finset.coe_range, ← orderOf_residue_three] at hi hj
  exact pow_injOn_Iio_orderOf hi hj hresidue

/-- The 255 powers of `0x03` differ and none is `0x00`, so they are all the nonzero bytes. -/
theorem exists_gfPow_three {a : Byte} (ha : a ≠ 0x00#8) : ∃ j, gfPow 0x03#8 j = a := by
  have card : (Finset.univ.erase (0x00#8 : Byte)).card ≤ (Finset.range 255).card := by
    simp [← FinEnum.card_eq_fintypeCard]
  obtain ⟨j, -, hj⟩ := Finset.surjOn_of_injOn_of_card_le (gfPow 0x03#8)
    (fun j _ => by simpa using gfPow_three_ne_zero j) gfPow_three_injOn card (by simpa using ha : a ∈ _)
  exact ⟨j, hj⟩

/-- The 254th power of a nonzero byte is an inverse of it (rule R103). -/
theorem gfMul_gfPow_254 {a : Byte} (ha : a ≠ 0x00#8) : gfMul a (gfPow a 254) = 0x01#8 := by
  obtain ⟨j, rfl⟩ := exists_gfPow_three ha
  refine residue_injective ?_
  rw [residue_gfMul, residue_gfPow _ 254, ← pow_succ', residue_gfPow_three_pow_255, residue_one]

/-- A byte has at most one inverse: two inverses are each the product of both with the byte. -/
theorem gfMul_left_unique {a b c : Byte} (hb : gfMul a b = 0x01#8) (hc : gfMul a c = 0x01#8) : c = b :=
  calc c = gfMul (gfMul a b) c := by rw [hb, one_gfMul]
    _ = gfMul (gfMul a c) b := by rw [gfMul_assoc, gfMul_comm b c, gfMul_assoc]
    _ = b := by rw [hc, one_gfMul]

/-- `gf_inv` answers exactly the inverse (rule R103). -/
theorem gfInv_eq_some_iff {a b : Byte} : gfInv a = some b ↔ gfMul a b = 0x01#8 := by
  have found {v : Byte} (h : gfInv a = some v) : gfMul a v = 0x01#8 := beq_iff_eq.mp (List.find?_some h :)
  refine ⟨found, fun hb => ?_⟩
  have listed : b ∈ (List.range 256).map (BitVec.ofNat 8) :=
    List.mem_map.mpr ⟨b.toNat, List.mem_range.mpr b.isLt, by simp⟩
  obtain ⟨v, hv⟩ := Option.isSome_iff_exists.mp (List.find?_isSome.mpr ⟨b, listed, beq_iff_eq.mpr hb⟩ : (gfInv a).isSome)
  exact gfMul_left_unique hb (found hv) ▸ hv

theorem gfInv_zero : gfInv 0x00#8 = none := by
  refine Option.eq_none_iff_forall_ne_some.mpr fun b hb => ?_
  rw [gfInv_eq_some_iff, zero_gfMul] at hb
  exact absurd hb (by decide)

/-! ## The statements -/

/-- Settles O37: the residue of `gf_mul` is the product of the residues. -/
theorem gfMulIsPolynomialProduct : Obligations.GfMulIsPolynomialProduct := by
  refine ⟨fun a b => AdjoinRoot.mk_eq_mk.mp ?_, fun a => ⟨gfMul_one a, one_gfMul a, gfMul_zero a, zero_gfMul a⟩⟩
  rw [map_mul]
  exact (residue_gfMul a b).symm

/-- Settles O38: the laws hold of residues, and the 254th power of a nonzero byte is an inverse. -/
theorem bytesFormAField : Obligations.BytesFormAField :=
  ⟨fun a b => ⟨gfAdd_comm a b, gfMul_comm a b⟩,
    fun a b c => ⟨gfAdd_assoc a b c, gfMul_assoc a b c, gfMul_gfAdd a b c⟩,
    fun a => ⟨gfAdd_zero a, gfMul_one a, gfAdd_self a⟩,
    fun a ha => ⟨gfPow a 254, gfMul_gfPow_254 ha⟩⟩

/-- Settles O39: `gf_inv` answers exactly the byte that is an inverse, which the 254th power is. -/
theorem gfInvIsUniqueInverse : Obligations.GfInvIsUniqueInverse :=
  ⟨gfInv_zero, fun a ha => ⟨gfPow a 254, gfInv_eq_some_iff.mpr (gfMul_gfPow_254 ha), gfMul_gfPow_254 ha,
    fun _ => gfMul_left_unique (gfMul_gfPow_254 ha), rfl⟩⟩

end Sys2Proof.Machine
end

section
/-! SUPPORT. The GF256 ALU and byte-memory commands (rules R110 to R116 of 41_gf256_alu.md). The rule of each is made of three facts:
which words of its opcode are illegal (rule R77), which operands are refused (rule R78), what it does on registers that exist. -/

namespace Sys2Proof.Machine

open Sys2Proof.Claims

/-! ## Illegal words and refused operands -/

theorem decode_word (op a b c : Byte) (imm : Word32) : decode (word op a b c imm) = decodeFields ⟨op, a, b, c, imm⟩ :=
  decode_wordOf ⟨op, a, b, c, imm⟩

/-- A word of an opcode answers ILLEGAL_COMMAND unless its reserved fields are zero (rule R77). -/
theorem illegalUnless_of_ifReservedZero {op : Byte} {legal : Byte → Byte → Byte → Word32 → Prop}
    (row : ∀ a b c imm, ∃ reservedZero i, decodeFields ⟨op, a, b, c, imm⟩ = ifReservedZero reservedZero i
      ∧ (reservedZero = true → legal a b c imm)) : IllegalUnless op legal := by
  intro s a b c imm illegal
  obtain ⟨reservedZero, i, hdecode, hlegal⟩ := row a b c imm
  have hword : decode (word op a b c imm) = .error .reservedNotZero :=
    calc decode (word op a b c imm) = decodeFields ⟨op, a, b, c, imm⟩ := decode_word op a b c imm
      _ = ifReservedZero reservedZero i := hdecode
      _ = .error .reservedNotZero := if_neg (mt hlegal illegal)
  exact runCommand_error hword

/-- A command whose operands the table of rule R78 refuses answers BAD_OPERAND. -/
theorem exec_of_not_wellFormed {i : Instr} (s : State) (h : ¬ WellFormed i) : exec i s = .next (failed s .badOperand 0) :=
  (badOperandExactlyWhenRefused i s).1 h

theorem greg_eq_true_iff {a : Byte} : WellFormed.greg a = true ↔ ¬ 15 < a.toNat := by
  simp [WellFormed.greg]

/-! ## What each command does on registers that exist -/

section

variable (s : State)

theorem zext32_eq_ofNat (v : Byte) : zext32 v = BitVec.ofNat 32 v.toNat := by simp [zext32]

theorem complete_zext32 (v : Byte) : complete (zext32 v) s = .next (answered s (BitVec.ofNat 32 v.toNat)) := by
  rw [← zext32_eq_ofNat]
  rfl

/-- A scalar register is written with the byte that is answered, zero-extended (rule R73). -/
theorem completeG_eq (d : Fin 16) (v : Byte) :
    completeG d v s = .next { answered s (BitVec.ofNat 32 v.toNat) with g := s.g.set d v } :=
  complete_zext32 (s.setG d v) v

theorem exec_gfldi (d : Fin 16) (v : Byte) : exec (.gfldi (regField d) v) s = completeG d v s := by
  rw [exec, execGfldi, gregOf_ofNat, withOperand_some]

/-- GFADD and GFMUL read both sources from the pre-state, also when registers coincide (rules R111, R112). -/
theorem fieldOp_regField (op : Byte → Byte → Byte) (d a b : Fin 16) :
    fieldOp op (regField d) (regField a) (regField b) s = completeG d (op s.g[a] s.g[b]) s := by
  rw [fieldOp, gregOf_ofNat, withOperand_some, gregOf_ofNat, withOperand_some, gregOf_ofNat, withOperand_some]

theorem exec_gfinv_of_none {a : Fin 16} (d : Fin 16) (h : gfInv s.g[a] = none) :
    exec (.gfinv (regField d) (regField a)) s = raise .domainError 0 s := by
  rw [exec, execGfinv, gregOf_ofNat, withOperand_some, gregOf_ofNat, withOperand_some, h]

theorem exec_gfinv_of_some {a : Fin 16} {v : Byte} (d : Fin 16) (h : gfInv s.g[a] = some v) :
    exec (.gfinv (regField d) (regField a)) s = completeG d v s := by
  rw [exec, execGfinv, gregOf_ofNat, withOperand_some, gregOf_ofNat, withOperand_some, h]

theorem exec_gfrd (a : Fin 16) : exec (.gfrd (regField a)) s = complete (zext32 s.g[a]) s := by
  rw [exec, execGfrd, gregOf_ofNat, withOperand_some]

theorem exec_ldb (d : Fin 16) (addr : Word32) :
    exec (.ldb (regField d) addr) s =
      if addr.toNat < s.dmemBytes.toNat then completeG d (memRead s.dmem addr.toNat) s else raise .badRange 0 s := by
  simp only [exec, execLdb, gregOf_ofNat, withOperand_some, State.hasByte, decide_eq_true_eq]

theorem exec_stb (a : Fin 16) (addr : Word32) :
    exec (.stb (regField a) addr) s =
      if addr.toNat < s.dmemBytes.toNat then complete 0 (s.setDmem (memWrite s.dmem addr.toNat s.g[a]))
      else raise .badRange 0 s := by
  simp only [exec, execStb, gregOf_ofNat, withOperand_some, State.hasByte, decide_eq_true_eq]

end

/-! ## The statements -/

/-- Settles O22: one register is written, with the byte of the command. -/
theorem gfldiRule : Obligations.GfldiRule := by
  refine ⟨?illegal, fun _ _ => decode_eq_ok_iff.mpr rfl, fun s gd v h => ?refused, fun s d v => ?done⟩
  case illegal => exact illegalUnless_of_ifReservedZero fun _ _ _ _ => ⟨_, _, rfl, by simp⟩
  case refused => exact exec_of_not_wellFormed s (by simpa [Instr.wellFormed, greg_eq_true_iff] using h)
  case done => rw [exec_gfldi, completeG_eq]

/-- Settles O23: a field operation on two registers of the pre-state. -/
theorem gfaddRule : Obligations.GfaddRule := by
  refine ⟨?illegal, fun _ _ _ => decode_eq_ok_iff.mpr rfl, fun s gd ga gb h => ?refused, fun s d a b => ?done⟩
  case illegal => exact illegalUnless_of_ifReservedZero fun _ _ _ _ => ⟨_, _, rfl, by simp⟩
  case refused =>
    refine exec_of_not_wellFormed s ?_
    simp only [WellFormed, Instr.wellFormed, Bool.and_eq_true, greg_eq_true_iff]
    omega
  case done => exact (fieldOp_regField s gfAdd d a b).trans (completeG_eq s d _)

/-- Settles O24: a field operation on two registers of the pre-state. -/
theorem gfmulRule : Obligations.GfmulRule := by
  refine ⟨?illegal, fun _ _ _ => decode_eq_ok_iff.mpr rfl, fun s gd ga gb h => ?refused, fun s d a b => ?done⟩
  case illegal => exact illegalUnless_of_ifReservedZero fun _ _ _ _ => ⟨_, _, rfl, by simp⟩
  case refused =>
    refine exec_of_not_wellFormed s ?_
    simp only [WellFormed, Instr.wellFormed, Bool.and_eq_true, greg_eq_true_iff]
    omega
  case done => exact (fieldOp_regField s gfMul d a b).trans (completeG_eq s d _)

/-- Settles O25: `gf_inv` answers none for `0x00`, and for any other byte the one whose product with it is `0x01`. -/
theorem gfinvRule : Obligations.GfinvRule := by
  refine ⟨?illegal, fun _ _ => decode_eq_ok_iff.mpr rfl, fun s gd ga h => ?refused, fun s d a h => ?zero, fun s d a h => ?done⟩
  case illegal => exact illegalUnless_of_ifReservedZero fun _ _ _ _ => ⟨_, _, rfl, by simp⟩
  case refused =>
    refine exec_of_not_wellFormed s ?_
    simp only [WellFormed, Instr.wellFormed, Bool.and_eq_true, greg_eq_true_iff]
    omega
  case zero => exact exec_gfinv_of_none s d (h ▸ gfInv_zero)
  case done =>
    obtain ⟨v, hinv, hmul, -⟩ := gfInvIsUniqueInverse.2 _ h
    exact ⟨v, hmul, (exec_gfinv_of_some s d hinv).trans (completeG_eq s d v)⟩

/-- Settles O26: the register is answered, zero-extended. -/
theorem gfrdRule : Obligations.GfrdRule := by
  refine ⟨?illegal, fun _ => decode_eq_ok_iff.mpr rfl, fun s ga h => ?refused, fun s a => ?done⟩
  case illegal => exact illegalUnless_of_ifReservedZero fun _ _ _ _ => ⟨_, _, rfl, by simp [and_assoc]⟩
  case refused => exact exec_of_not_wellFormed s (by simpa [Instr.wellFormed, greg_eq_true_iff] using h)
  case done => rw [exec_gfrd, complete_zext32]

/-- Settles O27: the byte at the address, where there is one. -/
theorem ldbRule : Obligations.LdbRule := by
  refine ⟨?illegal, fun _ _ => decode_eq_ok_iff.mpr rfl, fun s gd addr h => ?refused, fun s d addr h => ?outside,
    fun s d addr h => ?done⟩
  case illegal => exact illegalUnless_of_ifReservedZero fun _ _ _ _ => ⟨_, _, rfl, by simp⟩
  case refused => exact exec_of_not_wellFormed s (by simpa [Instr.wellFormed, greg_eq_true_iff] using h)
  case outside => exact (exec_ldb s d addr).trans (if_neg (Nat.not_lt.mpr h))
  case done => rw [exec_ldb, if_pos h, completeG_eq]

/-- Settles O28: one byte of DMEM is written; a read of it answers the register, and every other read is as before. -/
theorem stbRule : Obligations.StbRule := by
  refine ⟨?illegal, fun _ _ => decode_eq_ok_iff.mpr rfl, fun s ga addr h => ?refused, fun s a addr h => ?outside,
    fun s a addr h => ?done⟩
  case illegal => exact illegalUnless_of_ifReservedZero fun _ _ _ _ => ⟨_, _, rfl, by simp⟩
  case refused => exact exec_of_not_wellFormed s (by simpa [Instr.wellFormed, greg_eq_true_iff] using h)
  case outside => exact (exec_stb s a addr).trans (if_neg (Nat.not_lt.mpr h))
  case done =>
    exact ⟨memWrite s.dmem addr.toNat s.g[a], (exec_stb s a addr).trans (if_pos h), memRead_memWrite_same .., fun _ =>
      memRead_memWrite_other _ _⟩

end Sys2Proof.Machine
end

section
/-! SUPPORT. The matrix engine commands (rules R135 to R140 of 42_matrix_engine.md): which words of each opcode are illegal (rule R77),
which operands are refused (rules R25, R78), what each command does on banks and cells that exist. -/

namespace Sys2Proof.Machine

open Sys2Proof.Claims

/-! ## Immediates and bank numbers -/

/-- Zero bits joined before a value extend it. -/
theorem zero_append_eq_setWidth {m n : Nat} (x : BitVec n) : 0#m ++ x = x.setWidth (m + n) := by
  refine BitVec.eq_of_toNat_eq ?_
  rw [BitVec.toNat_append, BitVec.toNat_setWidth_of_le (Nat.le_add_left n m)]
  simp

/-- A value whose high bits are zero fits its low bits. -/
theorem toNat_lt_of_high {m n : Nat} {x : BitVec (m + n)} (high : x.extractLsb' n m = 0#m) : x.toNat < 2 ^ n := by
  rw [← zero_append_low high, BitVec.toNat_append]
  simpa using (x.extractLsb' 0 n).isLt

theorem bank_eq_true_iff {a : Byte} : WellFormed.bank a = true ↔ ¬ 3 < a.toNat := by
  simp [WellFormed.bank]

theorem destBank_eq_true_iff {a : Byte} : WellFormed.destBank a = true ↔ ¬ (a = 0 ∨ 3 < a.toNat) := by
  rw [destBank_eq_isSome, Option.isSome_iff_ne_none, ne_eq, destBankOf_eq_none]

/-! ## What each command does on banks that exist -/

section

variable (s : State)

theorem withCell_inside {x : MatrixVal} {row col : Byte} (hr : row.toNat < x.rows) (hc : col.toNat < x.cols) (rest : Res) :
    withCell x row col s rest = rest :=
  if_pos (decide_eq_true ⟨hr, hc⟩)

/-- A command on a cell the bank does not have answers DIM_ERROR (rules R24, R136 to R138). -/
theorem withCell_outside {x : MatrixVal} {row col : Byte} (h : x.rows ≤ row.toNat ∨ x.cols ≤ col.toNat) (rest : Res) :
    withCell x row col s rest = .next (failed s .dimError 0) :=
  if_neg fun cell => by have := of_decide_eq_true cell; omega

theorem exec_mdim {d : Fin 4} (hd : d ≠ 0) (rows cols : Byte) :
    exec (.mdim (bankField d) rows cols) s = complete 0 (s.setBank d (matZero rows.toNat cols.toNat)) := by
  rw [exec, execMdim, destBankOf_ofNat hd, withOperand_some]

theorem writeCell_bankField {d : Fin 4} (hd : d ≠ 0) (row col v : Byte) :
    writeCell (bankField d) row col v s =
      withCell s.banks[d] row col s (complete 0 (s.setBank d (s.banks[d].setCell row.toNat col.toNat v))) := by
  rw [writeCell, destBankOf_ofNat hd, withOperand_some]

/-- MWRI and MPUT outside the bank's dimensions (rules R136, R138). -/
theorem writeCell_outside {d : Fin 4} (hd : d ≠ 0) {row col : Byte} (v : Byte)
    (h : s.banks[d].rows ≤ row.toNat ∨ s.banks[d].cols ≤ col.toNat) :
    writeCell (bankField d) row col v s = .next (failed s .dimError 0) := by
  rw [writeCell_bankField s hd, withCell_outside s h]

/-- MWRI and MPUT on a cell of a matrix value: that cell is written, the other cells and the dimensions stay (rules R136, R138). -/
theorem writeCell_inside {d : Fin 4} (hd : d ≠ 0) {row col : Byte} (v : Byte) (wf : s.banks[d].wf = true)
    (hr : row.toNat < s.banks[d].rows) (hc : col.toNat < s.banks[d].cols) :
    ∃ x, writeCell (bankField d) row col v s = .next { answered s 0 with banks := s.banks.set d x }
      ∧ x.wf = true ∧ x.rows = s.banks[d].rows ∧ x.cols = s.banks[d].cols
      ∧ ∀ r c, r < x.rows → c < x.cols → x.cell r c = if r = row.toNat ∧ c = col.toNat then v else s.banks[d].cell r c := by
  refine ⟨s.banks[d].setCell row.toNat col.toNat v, ?_, MatrixVal.wf_setCell _ _ _ wf, rfl, rfl, fun r c hr' hc' =>
    MatrixVal.cell_setCell wf v hr' hc'⟩
  rw [writeCell_bankField s hd, withCell_inside s hr hc]
  rfl

theorem exec_mput (md row col : Byte) (a : Fin 16) :
    exec (.mput md row col (BitVec.ofNat 4 a.val)) s = writeCell md row col s.g[a] s := by
  simp only [exec, execMput, nibbleReg_ofNat]

theorem exec_mget (a : Fin 4) (row col : Byte) (gd : BitVec 4) :
    exec (.mget (bankField a) row col gd) s =
      withCell s.banks[a] row col s (completeG (nibbleReg gd) (s.banks[a].cell row.toNat col.toNat) s) := by
  rw [exec, execMget, bankOf_ofNat, withOperand_some]
  rfl

theorem exec_mmul {d : Fin 4} (hd : d ≠ 0) (a b : Fin 4) :
    exec (.mmul (bankField d) (bankField a) (bankField b)) s =
      if s.banks[a].cols = s.banks[b].rows then complete 0 (s.setBank d (matMul s.banks[a] s.banks[b]))
      else raise .dimError 0 s := by
  rw [exec, execMmul, destBankOf_ofNat hd, withOperand_some, bankOf_ofNat, withOperand_some, bankOf_ofNat, withOperand_some]

theorem exec_minv_of_not_square {d a : Fin 4} (hd : d ≠ 0) (h : s.banks[a].rows ≠ s.banks[a].cols) :
    exec (.minv (bankField d) (bankField a)) s = raise .dimError 0 s := by
  rw [exec, execMinv, destBankOf_ofNat hd, withOperand_some, bankOf_ofNat, withOperand_some, if_neg h]

theorem exec_minv_of_singular {d a : Fin 4} {column : Nat} (hd : d ≠ 0) (square : s.banks[a].rows = s.banks[a].cols)
    (h : invert s.banks[a] = .singular column) :
    exec (.minv (bankField d) (bankField a)) s = raise .singular (infoWord column) s := by
  rw [exec, execMinv, destBankOf_ofNat hd, withOperand_some, bankOf_ofNat, withOperand_some, if_pos square, h]

theorem exec_minv_of_ok {d a : Fin 4} {x : MatrixVal} (hd : d ≠ 0) (square : s.banks[a].rows = s.banks[a].cols)
    (h : invert s.banks[a] = .ok x) :
    exec (.minv (bankField d) (bankField a)) s = complete 0 (s.setBank d x) := by
  rw [exec, execMinv, destBankOf_ofNat hd, withOperand_some, bankOf_ofNat, withOperand_some, if_pos square, h]

end

/-! ## The statements -/

/-- Settles O29: the bank is the zero matrix of the dimensions of the command. -/
theorem mdimRule : Obligations.MdimRule := by
  refine ⟨?illegal, fun _ _ _ => decode_eq_ok_iff.mpr rfl, fun s md rows cols h => ?refused, fun s d rows cols hd => ?done⟩
  case illegal => exact illegalUnless_of_ifReservedZero fun _ _ _ _ => ⟨_, _, rfl, by simp⟩
  case refused => exact exec_of_not_wellFormed s fun wf => destBank_eq_true_iff.mp wf h
  case done =>
    exact ⟨matZero rows.toNat cols.toNat, exec_mdim s hd rows cols, wf_matBuild _ (byte_toNat_le rows) (byte_toNat_le cols),
      rfl, rfl, fun _ _ => matBuild_cell _⟩

/-- Settles O30: MWRI writes one cell, with the immediate byte. -/
theorem mwriRule : Obligations.MwriRule := by
  refine ⟨?illegal, fun _ _ _ v => ?decodes, fun s md row col v h => ?refused, fun s d row col v hd h => ?outside,
    fun s d row col v hd wf hr hc => ?done⟩
  case illegal =>
    exact illegalUnless_of_ifReservedZero fun _ _ _ _ => ⟨_, _, rfl, fun high => toNat_lt_of_high (m := 24) (beq_iff_eq.mp high)⟩
  case decodes => exact decode_eq_ok_iff.mpr (congrArg (word _ _ _ _) (zero_append_eq_setWidth v))
  case refused => exact exec_of_not_wellFormed s fun wf => destBank_eq_true_iff.mp wf h
  case outside => exact writeCell_outside s hd v h
  case done => exact writeCell_inside s hd v wf hr hc

/-- Settles O32: MPUT writes one cell, with a scalar register. -/
theorem mputRule : Obligations.MputRule := by
  refine ⟨?illegal, fun _ _ _ ga => ?decodes, fun s md row col ga h => ?refused, fun s d row col ga hd h => ?outside,
    fun s d row col a hd wf hr hc => ?done⟩
  case illegal =>
    exact illegalUnless_of_ifReservedZero fun _ _ _ _ => ⟨_, _, rfl, fun high => toNat_lt_of_high (m := 28) (beq_iff_eq.mp high)⟩
  case decodes => exact decode_eq_ok_iff.mpr (congrArg (word _ _ _ _) (zero_append_eq_setWidth ga))
  case refused => exact exec_of_not_wellFormed s fun wf => destBank_eq_true_iff.mp wf h
  case outside => exact writeCell_outside s hd _ h
  case done =>
    rw [exec_mput]
    exact writeCell_inside s hd _ wf hr hc

/-- Settles O33: the destination bank is `MatMul` of two banks of the pre-state. -/
theorem mmulRule : Obligations.MmulRule := by
  refine ⟨?illegal, fun _ _ _ => decode_eq_ok_iff.mpr rfl, fun s md ma mb h => ?refused, fun s d a b hd h => ?outside,
    fun s d a b hd h => ?done⟩
  case illegal => exact illegalUnless_of_ifReservedZero fun _ _ _ _ => ⟨_, _, rfl, by simp⟩
  case refused =>
    refine exec_of_not_wellFormed s ?_
    simp only [WellFormed, Instr.wellFormed, Bool.and_eq_true, destBank_eq_true_iff, bank_eq_true_iff]
    tauto
  case outside => exact (exec_mmul s hd a b).trans (if_neg h)
  case done =>
    exact ⟨matMul s.banks[a] s.banks[b], (exec_mmul s hd a b).trans (if_pos h), rfl, rfl, wf_matMul, fun _ _ => matBuild_cell _⟩

/-- Settles O34: the destination bank is what `Invert` answers. -/
theorem minvRule : Obligations.MinvRule := by
  refine ⟨?illegal, fun _ _ => decode_eq_ok_iff.mpr rfl, fun s md ma h => ?refused, fun s d a hd h => ?notSquare,
    fun s d a column hd square h => ?singular, fun s d a x hd square h => ?done⟩
  case illegal => exact illegalUnless_of_ifReservedZero fun _ _ _ _ => ⟨_, _, rfl, by simp⟩
  case refused =>
    refine exec_of_not_wellFormed s ?_
    simp only [WellFormed, Instr.wellFormed, Bool.and_eq_true, destBank_eq_true_iff, bank_eq_true_iff]
    tauto
  case notSquare => exact exec_minv_of_not_square s hd h
  case singular => exact exec_minv_of_singular s hd square h
  case done => exact exec_minv_of_ok s hd square h

/-- Settles O31: MGET reads one cell of any bank into a scalar register. -/
theorem mgetRule : Obligations.MgetRule := by
  refine ⟨?illegal, fun _ _ _ gd => ?decodes, fun s ma row col gd h => ?refused, fun s a row col gd h => ?outside,
    fun s a row col d hr hc => ?done⟩
  case illegal =>
    exact illegalUnless_of_ifReservedZero fun _ _ _ _ => ⟨_, _, rfl, fun high => toNat_lt_of_high (m := 28) (beq_iff_eq.mp high)⟩
  case decodes => exact decode_eq_ok_iff.mpr (congrArg (word _ _ _ _) (zero_append_eq_setWidth gd))
  case refused => exact exec_of_not_wellFormed s fun wf => bank_eq_true_iff.mp wf h
  case outside => exact (exec_mget s a row col gd).trans (withCell_outside s h _)
  case done => rw [exec_mget, withCell_inside s hr hc, nibbleReg_ofNat, completeG_eq]

end Sys2Proof.Machine
end

section
/-! SUPPORT. Matrix values over the ring of residues (rules R13, R130): a matrix value is determined by the matrix of its cells'
residues, and `MatMul` and `I_s` are the product and the unit of such matrices, so that their laws are those of matrices over a
commutative ring. -/

namespace Sys2Proof.Machine

open Sys2Proof.Claims

/-! ## Sums -/

@[simp] theorem residue_xorSum (q : Nat) (f : Nat → Byte) : residue (xorSum q f) = ∑ t ∈ Finset.range q, residue (f t) := by
  induction q with
  | zero => simp
  | succ q ih => rw [xorSum_succ, residue_gfAdd, ih, Finset.sum_range_succ]

theorem xorSum_gfAdd (q : Nat) (f f' : Nat → Byte) :
    xorSum q (fun t => gfAdd (f t) (f' t)) = gfAdd (xorSum q f) (xorSum q f') :=
  residue_injective (by simp [Finset.sum_add_distrib])

theorem gfMul_xorSum (a : Byte) (q : Nat) (f : Nat → Byte) : gfMul a (xorSum q f) = xorSum q fun t => gfMul a (f t) :=
  residue_injective (by simp [Finset.mul_sum])

/-- The dot product of row `r` of an identity matrix with `q` bytes is byte `r` of them. -/
theorem xorSum_unit (q r : Nat) (f : Nat → Byte) :
    (xorSum q fun t => gfMul (if r = t then 0x01 else 0x00) (f t)) = if r < q then f r else 0x00 := by
  refine residue_injective ?_
  simp [apply_ite residue]

/-! ## Matrices of residues -/

/-- The residues of the first `p` rows and `q` columns of a matrix value. -/
noncomputable def MatrixVal.toMatrix (a : MatrixVal) (p q : Nat) : Matrix (Fin p) (Fin q) (AdjoinRoot fieldPolynomial) :=
  Matrix.of fun i j => residue (a.cell i j)

theorem toMatrix_matMul {a b : MatrixVal} {p q r : Nat} (hp : a.rows = p) (hq : a.cols = q) (hr : b.cols = r) :
    (matMul a b).toMatrix p r = a.toMatrix p q * b.toMatrix q r := by
  subst hp hq hr
  ext i j
  simp [MatrixVal.toMatrix, Matrix.mul_apply, matMul, matBuild_cell, Finset.sum_range]

theorem toMatrix_matIdentity (s : Nat) : (matIdentity s).toMatrix s s = 1 := by
  ext i j
  simp [MatrixVal.toMatrix, matIdentity, matBuild_cell, Matrix.one_apply, apply_ite residue, Fin.ext_iff]

theorem MatrixVal.eq_of_toMatrix_eq {x y : MatrixVal} {p q : Nat} (hx : x.wf = true) (hy : y.wf = true)
    (hxr : x.rows = p) (hxc : x.cols = q) (hyr : y.rows = p) (hyc : y.cols = q) (h : x.toMatrix p q = y.toMatrix p q) : x = y := by
  subst hxr hxc
  exact ext_cells hx hy hyr.symm hyc.symm fun r hr c hc => residue_injective (congrFun (congrFun h ⟨r, hr⟩) ⟨c, hc⟩)

/-- Two square matrix values are inverses when their matrices are. -/
theorem matMul_eq_identity_iff {a b : MatrixVal} {s : Nat} (hs : s ≤ 255) (har : a.rows = s) (hac : a.cols = s)
    (hbc : b.cols = s) : matMul a b = matIdentity s ↔ a.toMatrix s s * b.toMatrix s s = 1 := by
  rw [← toMatrix_matMul har hac hbc, ← toMatrix_matIdentity]
  refine ⟨fun h => by rw [h], MatrixVal.eq_of_toMatrix_eq ?_ (wf_matBuild _ hs hs) har hbc rfl rfl⟩
  exact wf_matBuild _ (har.trans_le hs) (hbc.trans_le hs)

/-- A left inverse of a square matrix value is a right inverse. -/
theorem matMul_eq_identity_comm {a b : MatrixVal} {s : Nat} (hs : s ≤ 255) (har : a.rows = s) (hac : a.cols = s)
    (hbr : b.rows = s) (hbc : b.cols = s) : matMul a b = matIdentity s ↔ matMul b a = matIdentity s := by
  rw [matMul_eq_identity_iff hs har hac hbc, matMul_eq_identity_iff hs hbr hbc hac, mul_eq_one_comm]

/-- A right inverse of a square matrix value that has a left inverse is that left inverse. -/
theorem eq_of_matMul_eq_identity {a x y : MatrixVal} {s : Nat} (hs : s ≤ 255) (har : a.rows = s) (hac : a.cols = s)
    (hx : x.wf = true) (hxr : x.rows = s) (hxc : x.cols = s) (hy : y.wf = true) (hyr : y.rows = s) (hyc : y.cols = s)
    (hxa : matMul x a = matIdentity s) (hay : matMul a y = matIdentity s) : y = x := by
  rw [matMul_eq_identity_iff hs hxr hxc hac] at hxa
  rw [matMul_eq_identity_iff hs har hac hyc] at hay
  exact MatrixVal.eq_of_toMatrix_eq hy hx hyr hyc hxr hxc (left_inv_eq_right_inv hxa hay).symm

/-! ## Dependent columns -/

/-- A dependent column stays dependent, with the same coefficients, when a matrix is multiplied from the left. -/
theorem columnDependent_matMul {a y : MatrixVal} {c : Nat} (h : ColumnDependent a c) (hc : c < a.cols) (hy : y.cols = a.rows) :
    ColumnDependent (matMul y a) c := by
  obtain ⟨coefficient, h⟩ := h
  refine ⟨coefficient, fun r (hr : r < y.rows) => ?_⟩
  calc (matMul y a).cell r c
    _ = xorSum y.cols fun u => gfMul (y.cell r u) (xorSum c fun t => gfMul (a.cell u t) (coefficient t)) :=
      (matBuild_cell _ hr hc).trans (xorSum_congr fun u hu => by rw [h u (hy ▸ hu)])
    _ = xorSum c fun t => gfMul (xorSum y.cols fun u => gfMul (y.cell r u) (a.cell u t)) (coefficient t) :=
      residue_injective (by simp [Finset.mul_sum, Finset.sum_mul, mul_assoc, Finset.sum_comm (s := Finset.range y.cols)])
    _ = xorSum c fun t => gfMul ((matMul y a).cell r t) (coefficient t) :=
      xorSum_congr fun t ht => by rw [matMul, matBuild_cell _ hr (ht.trans hc)]

/-- No column of an identity matrix depends on those before it: in row `c` they are all `0x00`. -/
theorem not_columnDependent_matIdentity {s c : Nat} (hc : c < s) : ¬ ColumnDependent (matIdentity s) c := by
  rintro ⟨coefficient, h⟩
  have hrow := h c hc
  rw [xorSum_congr fun t ht => by rw [matIdentity, matBuild_cell _ hc (ht.trans hc)], xorSum_unit, if_neg (lt_irrefl c),
    matIdentity, matBuild_cell _ hc hc, if_pos rfl] at hrow
  exact absurd hrow (by decide)

end Sys2Proof.Machine
end

section
/-! SUPPORT. `Invert` (rules R131, R133). Its row operations lead from the rows of `A` beside `I_s` to the rows at any later stage and
back, so what is closed under scaling rows and adding multiples of rows holds of both or of neither. Two such facts give rule R133:
row `w` of `W` is row `x` of `X` times `A`, and byte `c` of a row of `W` is a fixed combination of the bytes before it. -/

namespace Sys2Proof.Machine

open Sys2Proof.Claims

/-! ## Row operations -/

/-- Both halves of a row pair have `s` bytes. -/
abbrev RowPair.Size (s : Nat) (row : RowPair) : Prop := row.w.length = s ∧ row.x.length = s

theorem getD_map_gfMul (f : Byte) (v : List Byte) (j : Nat) : (v.map (gfMul f)).getD j 0x00 = gfMul f (v.getD j 0x00) := by
  simpa using List.getD_map v 0x00 (gfMul f) (n := j)

theorem getD_addScaled (e : Byte) {v p : List Byte} (h : v.length = p.length) (j : Nat) :
    (List.zipWith (fun v p => gfAdd v (gfMul e p)) v p).getD j 0x00 = gfAdd (v.getD j 0x00) (gfMul e (p.getD j 0x00)) := by
  by_cases hj : j < v.length
  · simp [List.getD_eq_getElem?_getD, hj, h ▸ hj]
  · simp [List.getD_eq_getElem?_getD, hj, h ▸ hj]

theorem eq_of_getD_eq {v v' : List Byte} (hl : v.length = v'.length) (h : ∀ j, v.getD j 0x00 = v'.getD j 0x00) : v = v' := by
  refine List.ext_getElem hl fun j hj hj' => ?_
  simpa [List.getD_eq_getElem?_getD, hj, hj'] using h j

theorem scaleRow_scaleRow {f g : Byte} (h : gfMul g f = 0x01) (row : RowPair) : scaleRow g (scaleRow f row) = row := by
  have undo : gfMul g ∘ gfMul f = id := funext fun v => by simp [← gfMul_assoc, h]
  simp [scaleRow, undo]

section

variable {s : Nat} {pivot row : RowPair}

theorem RowPair.ext_getD {row' : RowPair} (h : row.Size s) (h' : row'.Size s)
    (hw : ∀ j, row.w.getD j 0x00 = row'.w.getD j 0x00) (hx : ∀ j, row.x.getD j 0x00 = row'.x.getD j 0x00) : row = row' := by
  obtain ⟨w, x⟩ := row
  obtain ⟨w', x'⟩ := row'
  exact congrArg₂ RowPair.mk (eq_of_getD_eq (h.1.trans h'.1.symm) hw) (eq_of_getD_eq (h.2.trans h'.2.symm) hx)

theorem size_addScaledRow (e : Byte) (hp : pivot.Size s) (hr : row.Size s) : (addScaledRow e pivot row).Size s := by
  simp [addScaledRow, RowPair.Size, hp.1, hp.2, hr.1, hr.2]

theorem addScaledRow_w (e : Byte) (hp : pivot.Size s) (hr : row.Size s) (j : Nat) :
    (addScaledRow e pivot row).w.getD j 0x00 = gfAdd (row.w.getD j 0x00) (gfMul e (pivot.w.getD j 0x00)) :=
  getD_addScaled e (hr.1.trans hp.1.symm) j

theorem addScaledRow_x (e : Byte) (hp : pivot.Size s) (hr : row.Size s) (j : Nat) :
    (addScaledRow e pivot row).x.getD j 0x00 = gfAdd (row.x.getD j 0x00) (gfMul e (pivot.x.getD j 0x00)) :=
  getD_addScaled e (hr.2.trans hp.2.symm) j

/-- Adding the same multiple of a row twice changes nothing, since `gf_add` is its own inverse. -/
theorem addScaledRow_addScaledRow (e : Byte) (hp : pivot.Size s) (hr : row.Size s) :
    addScaledRow e pivot (addScaledRow e pivot row) = row := by
  have once := size_addScaledRow e hp hr
  refine RowPair.ext_getD (size_addScaledRow e hp once) hr (fun j => ?_) fun j => ?_
  · rw [addScaledRow_w e hp once, addScaledRow_w e hp hr, gfAdd_assoc, gfAdd_self, gfAdd_zero]
  · rw [addScaledRow_x e hp once, addScaledRow_x e hp hr, gfAdd_assoc, gfAdd_self, gfAdd_zero]

/-- A row whose byte in the column is `0x00` is left as it is, which is what adding `0x00` times the pivot row does. -/
theorem eliminateRow_eq (c : Nat) (hp : pivot.Size s) (hr : row.Size s) :
    eliminateRow pivot c row = addScaledRow (row.w.getD c 0x00) pivot row := by
  unfold eliminateRow
  split
  · next hzero =>
    rw [hzero]
    refine (RowPair.ext_getD (size_addScaledRow _ hp hr) hr (fun j => ?_) fun j => ?_).symm
    · simpa using addScaledRow_w 0x00 hp hr j
    · simpa using addScaledRow_x 0x00 hp hr j
  · rfl

end

/-! ## What holds of every row -/

/-- A property of row pairs that scaling a row and adding a multiple of a row keep. -/
structure RowClosed (s : Nat) (P : RowPair → Prop) : Prop where
  scale : ∀ (f : Byte) (row : RowPair), P row → P (scaleRow f row)
  add : ∀ (e : Byte) (pivot row : RowPair), pivot.Size s → row.Size s → P pivot → P row → P (addScaledRow e pivot row)

/-- A property of the `s` row pairs of an inversion. -/
def EveryRow (s : Nat) (P : RowPair → Prop) (rows : List RowPair) : Prop := ∀ r < s, P (rows.getD r ⟨[], []⟩)

section

variable {s c piv : Nat} {rows rows' : List RowPair} {P : RowPair → Prop}

theorem swapRows_getD (h : PairsShape s rows) (hc : c < s) (hp : piv < s) (r : Nat) :
    (swapRows rows c piv).getD r ⟨[], []⟩ = rows.getD (Equiv.swap c piv r) ⟨[], []⟩ := by
  have hcl : c < rows.length := h.1 ▸ hc
  have hpl : piv < rows.length := h.1 ▸ hp
  rw [swapRows, List.getD_eq_getElem?_getD, List.getElem?_set, List.length_set]
  by_cases hrp : piv = r
  · subst hrp
    simp [hpl]
  by_cases hrc : c = r
  · subst hrc
    simp [hrp, hcl]
  · rw [if_neg hrp, List.getElem?_set_ne hrc, Equiv.swap_apply_of_ne_of_ne (Ne.symm hrc) (Ne.symm hrp), List.getD_eq_getElem?_getD]

theorem swap_lt {r : Nat} (hc : c < s) (hp : piv < s) (hr : r < s) : Equiv.swap c piv r < s := by
  rw [Equiv.swap_apply_def]
  split_ifs <;> assumption

theorem everyRow_swapRows (h : PairsShape s rows) (hc : c < s) (hp : piv < s) :
    EveryRow s P (swapRows rows c piv) ↔ EveryRow s P rows := by
  simp only [EveryRow, swapRows_getD h hc hp]
  exact ⟨fun every r hr => by simpa using every _ (swap_lt hc hp hr), fun every r hr => every _ (swap_lt hc hp hr)⟩

/-- One column reduced: the pivot row is scaled to have `0x01` in the column, and its multiples are added to the other rows. -/
theorem reduceColumn_getD (h : PairsShape s rows) (hc : c < s) (e : reduceColumn rows c = some rows') :
    ∃ f, gfMul (pairCell rows c c) f = 0x01 ∧ rows'.getD c ⟨[], []⟩ = scaleRow f (rows.getD c ⟨[], []⟩)
      ∧ ∀ r < s, r ≠ c →
        rows'.getD r ⟨[], []⟩ = addScaledRow (pairCell rows r c) (rows'.getD c ⟨[], []⟩) (rows.getD r ⟨[], []⟩) := by
  have shape' := h.reduceColumn hc e
  unfold reduceColumn at e
  split at e
  · simp at e
  next f hf =>
  have getD_rows' (r : Nat) (hr : r < s) : rows'.getD r ⟨[], []⟩ = if r = c then scaleRow f (rows.getD c ⟨[], []⟩)
      else eliminateRow (scaleRow f (rows.getD c ⟨[], []⟩)) c (rows.getD r ⟨[], []⟩) := by
    have hlt : r < rows.length := h.1 ▸ hr
    simp [← Option.some.inj e, List.getD_eq_getElem?_getD, hlt]
  have pivotRow' := (getD_rows' c hc).trans (if_pos rfl)
  refine ⟨f, gfInv_eq_some_iff.mp hf, pivotRow', fun r hr hne => ?_⟩
  rw [getD_rows' r hr, if_neg hne, ← pivotRow', eliminateRow_eq c (shape'.getD hc) (h.getD hr), pairCell]

theorem everyRow_reduceColumn (h : PairsShape s rows) (hc : c < s) (e : reduceColumn rows c = some rows')
    (closed : RowClosed s P) : EveryRow s P rows' ↔ EveryRow s P rows := by
  obtain ⟨f, hf, hpivot, hother⟩ := reduceColumn_getD h hc e
  have shape' := h.reduceColumn hc e
  refine ⟨fun every r hr => ?_, fun every r hr => ?_⟩
  · by_cases hrc : r = c
    · subst hrc
      rw [← scaleRow_scaleRow hf (rows.getD r ⟨[], []⟩), ← hpivot]
      exact closed.scale _ _ (every r hr)
    · rw [← addScaledRow_addScaledRow (pairCell rows r c) (shape'.getD hc) (h.getD hr), ← hother r hr hrc]
      exact closed.add _ _ _ (shape'.getD hc) (shape'.getD hr) (every c hc) (every r hr)
  · have hPc : P (rows'.getD c ⟨[], []⟩) := hpivot ▸ closed.scale f _ (every c hc)
    by_cases hrc : r = c
    · exact hrc ▸ hPc
    · rw [hother r hr hrc]
      exact closed.add _ _ _ (shape'.getD hc) (h.getD hr) hPc (every r hr)

/-! ## Columns already reduced -/

/-- The first `c` columns of `W` are those of the identity matrix. -/
def Reduced (s c : Nat) (rows : List RowPair) : Prop := ∀ r < s, ∀ j < c, pairCell rows r j = if r = j then 0x01 else 0x00

/-- Swapping two rows at or below the pivot's place keeps the columns already reduced. -/
theorem Reduced.swapRows (hred : Reduced s c rows) (h : PairsShape s rows) (hcp : c ≤ piv) (hp : piv < s) :
    Reduced s c (swapRows rows c piv) := by
  intro r hr j hj
  have hc : c < s := hcp.trans_lt hp
  have fixed : Equiv.swap c piv j = j := Equiv.swap_apply_of_ne_of_ne hj.ne (hj.trans_le hcp).ne
  have same : Equiv.swap c piv r = j ↔ r = j := by rw [Equiv.swap_apply_eq_iff, fixed]
  rw [pairCell, swapRows_getD h hc hp, ← pairCell, hred _ (swap_lt hc hp hr) j hj]
  simp only [same]

/-- The pivot row has `0x00` in the columns already reduced, so its multiples leave them, and they clear its own column. -/
theorem Reduced.reduceColumn (hred : Reduced s c rows) (h : PairsShape s rows) (hc : c < s)
    (e : reduceColumn rows c = some rows') : Reduced s (c + 1) rows' := by
  obtain ⟨f, hf, hpivot, hother⟩ := reduceColumn_getD h hc e
  have shape' := h.reduceColumn hc e
  have pivotByte (j : Nat) (hj : j ≤ c) : pairCell rows' c j = if c = j then 0x01 else 0x00 := by
    rw [pairCell, hpivot, scaleRow, getD_map_gfMul, ← pairCell]
    rcases hj.eq_or_lt with rfl | hj
    · rw [gfMul_comm, hf, if_pos rfl]
    · simp [hred c hc j hj, hj.ne']
  intro r hr j hj
  have hjc : j ≤ c := Nat.le_of_lt_succ hj
  by_cases hrc : r = c
  · exact hrc ▸ pivotByte j hjc
  rw [pairCell, hother r hr hrc, addScaledRow_w _ (shape'.getD hc) (h.getD hr), ← pairCell, ← pairCell, pivotByte j hjc]
  rcases hjc.eq_or_lt with rfl | hj
  · simp [hrc]
  · simp [hj.ne', hred r hr j hj]

/-! ## The stages of Invert -/

/-- `Invert` on the row pairs `start` has reduced the first `c` columns and holds `rows`. -/
structure Stage (s : Nat) (start : List RowPair) (c : Nat) (rows : List RowPair) : Prop where
  shape : PairsShape s rows
  reduced : Reduced s c rows
  same : ∀ P, RowClosed s P → (EveryRow s P rows ↔ EveryRow s P start)

theorem Stage.start (h : PairsShape s rows) : Stage s rows 0 rows :=
  ⟨h, fun _ _ _ hj => absurd hj (Nat.not_lt_zero _), fun _ _ => Iff.rfl⟩

theorem Stage.invertColumn {start : List RowPair} (h : Stage s start c rows) (e : invertColumn s rows c = some rows') :
    Stage s start (c + 1) rows' := by
  unfold Machine.invertColumn at e
  split at e
  · simp at e
  next piv hpiv =>
  obtain ⟨hcp, hp, -⟩ := pivotRow_spec hpiv
  have hc := hcp.trans_lt hp
  have swapped := h.shape.swapRows hc hp
  refine ⟨swapped.reduceColumn hc e, (h.reduced.swapRows h.shape hcp hp).reduceColumn swapped hc e, fun P closed => ?_⟩
  rw [everyRow_reduceColumn swapped hc e closed, everyRow_swapRows h.shape hc hp, h.same P closed]

theorem exists_gfInv {a : Byte} (ha : a ≠ 0x00) : ∃ b, gfInv a = some b := ⟨_, gfInv_eq_some_iff.mpr (gfMul_gfPow_254 ha)⟩

/-- A column that is not inverted has no pivot: it is `0x00` from row `c` down. -/
theorem pairCell_eq_zero_of_invertColumn (h : PairsShape s rows) (e : invertColumn s rows c = none) {r : Nat} (hcr : c ≤ r)
    (hr : r < s) : pairCell rows r c = 0x00 := by
  unfold invertColumn at e
  split at e
  · next hnone => simpa [hcr] using List.find?_eq_none.mp hnone r (List.mem_range.mpr hr)
  · next piv hpiv =>
    obtain ⟨hcp, hp, hne⟩ := pivotRow_spec hpiv
    have hpivot : pairCell (swapRows rows c piv) c c = pairCell rows piv c := by
      rw [pairCell, swapRows_getD h (hcp.trans_lt hp) hp, Equiv.swap_apply_left, pairCell]
    obtain ⟨f, hf⟩ := exists_gfInv hne
    simp [reduceColumn, hpivot, hf] at e

/-- How `Invert` ends: all columns reduced and `X` answered, or no pivot in the column it reports. -/
inductive Ends (s : Nat) (start : List RowPair) : InvertResult → Prop where
  | ok {rows : List RowPair} (stage : Stage s start s rows) : Ends s start (.ok ⟨s, s, rows.map RowPair.x⟩)
  | singular {rows : List RowPair} {c : Nat} (stage : Stage s start c rows) (hc : c < s)
      (noPivot : ∀ r, c ≤ r → r < s → pairCell rows r c = 0x00) : Ends s start (.singular c)

theorem Stage.invertColumns {start : List RowPair} (n : Nat) (h : Stage s start c rows) (hn : c + n = s) :
    Ends s start (invertColumns s rows (List.range' c n)) := by
  induction n generalizing c rows with
  | zero =>
    obtain rfl : c = s := hn
    exact .ok h
  | succ n ih =>
    rw [List.range'_succ, Machine.invertColumns]
    split
    · next e => exact .singular h (by omega) fun r => pairCell_eq_zero_of_invertColumn h.shape e
    · next rows' e => exact ih (h.invertColumn e) (by omega)

theorem invert_ends {a : MatrixVal} (wf : a.wf = true) (square : a.rows = a.cols) : Ends a.rows (beside a) (invert a) := by
  rw [invert, List.range_eq_range']
  exact (Stage.start (beside_shape wf square)).invertColumns _ (Nat.zero_add _)

end

/-! ## What the row operations keep -/

/-- Row `w` of `W` is row `x` of `X` times `A`. -/
def RowTimes (a : MatrixVal) (row : RowPair) : Prop :=
  ∀ j, row.w.getD j 0x00 = xorSum a.rows fun t => gfMul (row.x.getD t 0x00) (a.cell t j)

/-- Byte `c` of a row of `W` is the combination of the bytes before it with these coefficients. -/
def RowDependent (c : Nat) (coefficient : Nat → Byte) (row : RowPair) : Prop :=
  row.w.getD c 0x00 = xorSum c fun t => gfMul (row.w.getD t 0x00) (coefficient t)

theorem rowClosed_rowTimes (s : Nat) (a : MatrixVal) : RowClosed s (RowTimes a) where
  scale f row h j := by
    simp only [scaleRow, getD_map_gfMul, h j, gfMul_xorSum, gfMul_assoc]
  add e pivot row hp hr hpivot hrow j := by
    rw [addScaledRow_w e hp hr, hpivot j, hrow j, gfMul_xorSum, ← xorSum_gfAdd]
    refine xorSum_congr fun t _ => residue_injective ?_
    simp only [addScaledRow_x e hp hr, residue_gfAdd, residue_gfMul]
    ring

theorem rowClosed_rowDependent (s c : Nat) (coefficient : Nat → Byte) : RowClosed s (RowDependent c coefficient) where
  scale f row h := by
    unfold RowDependent at *
    simp only [scaleRow, getD_map_gfMul, h, gfMul_xorSum, gfMul_assoc]
  add e pivot row hp hr hpivot hrow := by
    unfold RowDependent at *
    rw [addScaledRow_w e hp hr, hpivot, hrow, gfMul_xorSum, ← xorSum_gfAdd]
    refine xorSum_congr fun t _ => residue_injective ?_
    simp only [addScaledRow_w e hp hr, residue_gfAdd, residue_gfMul]
    ring

/-! ## The rows of `A` beside `I_s` -/

section

variable {a : MatrixVal} (wf : a.wf = true)

include wf

theorem beside_getD {r : Nat} (hr : r < a.rows) :
    (beside a).getD r ⟨[], []⟩ = ⟨a.cells.getD r [], (matIdentity a.rows).cells.getD r []⟩ := by
  obtain ⟨-, -, hlen, -⟩ := (MatrixVal.wf_iff a).mp wf
  have hlt : r < a.cells.length := hlen ▸ hr
  simp [beside, matIdentity, matBuild, List.getD_eq_getElem?_getD, hr, hlt]

theorem everyRow_rowTimes_beside : EveryRow a.rows (RowTimes a) (beside a) := by
  intro r hr j
  rw [beside_getD wf hr]
  calc a.cell r j
    _ = xorSum a.rows fun t => gfMul (if r = t then 0x01 else 0x00) (a.cell t j) := by rw [xorSum_unit, if_pos hr]
    _ = xorSum a.rows fun t => gfMul ((matIdentity a.rows).cell r t) (a.cell t j) :=
      xorSum_congr fun t ht => by rw [matIdentity, matBuild_cell _ hr ht]

/-- The coefficients that make a column depend on those before it are the same for `A` and for its rows beside `I_s`. -/
theorem columnDependent_iff_beside {c : Nat} :
    ColumnDependent a c ↔ ∃ coefficient, EveryRow a.rows (RowDependent c coefficient) (beside a) := by
  refine exists_congr fun coefficient => forall₂_congr fun r hr => ?_
  rw [beside_getD wf hr]
  rfl

theorem Stage.columnDependent_iff {rows : List RowPair} {c c' : Nat} (h : Stage a.rows (beside a) c rows) :
    ColumnDependent a c' ↔ ∃ coefficient, EveryRow a.rows (RowDependent c' coefficient) rows := by
  rw [columnDependent_iff_beside wf]
  exact exists_congr fun coefficient => (h.same _ (rowClosed_rowDependent _ _ coefficient)).symm

/-! ## Rule R133 -/

/-- When every column is reduced, `X` is a left inverse of `A`: row by row, `X` times `A` is `W`, which is the identity. -/
theorem Stage.matMul_eq_identity {rows : List RowPair} (square : a.rows = a.cols) (h : Stage a.rows (beside a) a.rows rows) :
    matMul ⟨a.rows, a.rows, rows.map RowPair.x⟩ a = matIdentity a.rows := by
  rw [matMul, ← square]
  refine matBuild_congr fun r hr j hj => ?_
  have hrow := (h.same _ (rowClosed_rowTimes _ a)).mpr (everyRow_rowTimes_beside wf) r hr j
  have hx (t : Nat) : MatrixVal.cell ⟨a.rows, a.rows, rows.map RowPair.x⟩ r t = (rows.getD r ⟨[], []⟩).x.getD t 0x00 := by
    exact congrArg (List.getD · t 0x00) (List.getD_map rows ⟨[], []⟩ RowPair.x)
  simp only [hx]
  rw [← hrow, ← pairCell, h.reduced r hr j hj]

/-- A reduced column does not depend on those before it: its pivot row has `0x00` in all of them. -/
theorem Stage.not_columnDependent {rows : List RowPair} {c c' : Nat} (h : Stage a.rows (beside a) c rows) (hc : c ≤ a.rows)
    (hc' : c' < c) : ¬ ColumnDependent a c' := by
  rw [h.columnDependent_iff wf]
  rintro ⟨coefficient, every⟩
  have hr : c' < a.rows := hc'.trans_le hc
  have hrow : pairCell rows c' c' = xorSum c' fun t => gfMul (pairCell rows c' t) (coefficient t) := every c' hr
  rw [xorSum_congr fun t ht => by rw [h.reduced c' hr t (ht.trans hc')], xorSum_unit, if_neg (lt_irrefl c'),
    h.reduced c' hr c' hc', if_pos rfl] at hrow
  exact absurd hrow (by decide)

/-- A column without a pivot is a combination of the unit columns before it, with its own bytes as coefficients. -/
theorem Stage.columnDependent {rows : List RowPair} {c : Nat} (h : Stage a.rows (beside a) c rows)
    (noPivot : ∀ r, c ≤ r → r < a.rows → pairCell rows r c = 0x00) : ColumnDependent a c := by
  refine (h.columnDependent_iff wf).mpr ⟨fun t => pairCell rows t c, fun r hr => ?_⟩
  calc pairCell rows r c
    _ = if r < c then pairCell rows r c else 0x00 := by
      split
      · rfl
      · next hrc => exact noPivot r (Nat.le_of_not_lt hrc) hr
    _ = xorSum c fun t => gfMul (if r = t then 0x01 else 0x00) (pairCell rows t c) := (xorSum_unit c r fun t => pairCell rows t c).symm
    _ = xorSum c fun t => gfMul (pairCell rows r t) (pairCell rows t c) :=
      xorSum_congr fun t ht => by rw [h.reduced r hr t ht]

end

/-- A matrix value with a dependent column has no left inverse: the identity matrix would have a dependent column too. -/
theorem matMul_ne_identity_of_columnDependent {a y : MatrixVal} {c : Nat} (h : ColumnDependent a c) (hc : c < a.cols)
    (square : a.rows = a.cols) (hy : y.cols = a.rows) : matMul y a ≠ matIdentity a.rows := fun hya =>
  not_columnDependent_matIdentity (square ▸ hc) (hya ▸ columnDependent_matMul h hc hy)

/-! ## The statements -/

/-- Settles O35: `X` is a left inverse of `A`, and over a commutative ring a left inverse of a square matrix is its only inverse. -/
theorem invertGivesTheInverse : Obligations.InvertGivesTheInverse := by
  intro a x wf square e
  obtain ⟨hs, -⟩ := (MatrixVal.wf_iff a).mp wf
  obtain ⟨hx, hxr, hxc⟩ := invert_ok_shape wf square e
  have left : matMul x a = matIdentity a.rows := by
    have ends := invert_ends wf square
    rw [e] at ends
    cases ends with
    | ok stage => exact stage.matMul_eq_identity wf square
  have right := (matMul_eq_identity_comm hs rfl square.symm hxr hxc).mpr left
  exact ⟨hx, hxr, hxc, right, left, fun y hy hyr hyc => eq_of_matMul_eq_identity hs rfl square.symm hx hxr hxc hy hyr hyc left⟩

/-- Settles O36: at the column without a pivot the columns before it are reduced, and dependence is the same there as in `A`. -/
theorem invertReportsDependentColumn : Obligations.InvertReportsDependentColumn := by
  intro a c wf square e
  have ends := invert_ends wf square
  rw [e] at ends
  cases ends with
  | singular stage hc noPivot =>
    have dependent := stage.columnDependent wf noPivot
    exact ⟨square ▸ hc, dependent, fun c' => stage.not_columnDependent wf hc.le, fun y _ _ hyc =>
      matMul_ne_identity_of_columnDependent dependent (square ▸ hc) square hyc⟩

end Sys2Proof.Machine
end

section
/-! SUPPORT. The generator matrix and CFG (rules R160, R161, R163, R165 of 43_generator_cfg.md). A square matrix value has an inverse
that `Invert` finds when its matrix of residues is a unit. The Vandermonde matrix on distinct points is one, because its determinant
is a product of differences of points; `k` rows of `Gen(k, n)` are such a matrix times `T`, a unit as the inverse of `Vtop`. -/

namespace Sys2Proof.Machine

open Sys2Proof.Claims

/-! ## When Invert answers Ok -/

theorem isUnit_residue {a : Byte} (ha : a ≠ 0x00) : IsUnit (residue a) :=
  .of_mul_eq_one (residue (gfPow a 254)) (by rw [← residue_gfMul, gfMul_gfPow_254 ha, residue_one])

/-- A column that depends on the columns before it gives two vectors with one image, so the matrix is no unit. -/
theorem not_isUnit_toMatrix_of_columnDependent {a : MatrixVal} {c : Nat} (h : ColumnDependent a c) (hc : c < a.rows) :
    ¬ IsUnit (a.toMatrix a.rows a.rows) := by
  intro unit
  obtain ⟨coefficient, h⟩ := h
  have image : (a.toMatrix a.rows a.rows).mulVec (Pi.single ⟨c, hc⟩ 1)
      = (a.toMatrix a.rows a.rows).mulVec fun t => if t.val < c then residue (coefficient t) else 0 := by
    ext r
    have before : (Finset.range a.rows).filter (· < c) = Finset.range c := by
      ext t
      simp only [Finset.mem_filter, Finset.mem_range]
      omega
    calc (a.toMatrix a.rows a.rows).mulVec (Pi.single ⟨c, hc⟩ 1) r
      _ = residue (a.cell r c) := by rw [Matrix.mulVec_single_one]; rfl
      _ = ∑ t ∈ Finset.range c, residue (a.cell r t) * residue (coefficient t) := by rw [h r r.isLt]; simp
      _ = ∑ t : Fin a.rows, residue (a.cell r t) * if t.val < c then residue (coefficient t) else 0 := by
        simp only [mul_ite, mul_zero, ← before, Finset.sum_filter, Finset.sum_range]
  have apart := congrFun (Matrix.mulVec_injective_of_isUnit unit image) ⟨c, hc⟩
  rw [Pi.single_eq_same, if_neg (lt_irrefl c), ← residue_one, ← residue_zero] at apart
  exact absurd (residue_injective apart) (by decide)

/-- `Invert` finds the inverse of every square matrix value that has one (rule R133). -/
theorem invert_ok_of_isUnit {a : MatrixVal} {s : Nat} (wf : a.wf = true) (hr : a.rows = s) (hc : a.cols = s)
    (unit : IsUnit (a.toMatrix s s)) : ∃ x, invert a = .ok x := by
  subst hr
  cases e : invert a with
  | ok x => exact ⟨x, rfl⟩
  | singular c =>
    obtain ⟨hlt, dependent, -⟩ := invertReportsDependentColumn a c wf hc.symm e
    exact absurd unit (not_isUnit_toMatrix_of_columnDependent dependent (hc ▸ hlt))

/-! ## Vandermonde matrices -/

/-- Subtraction is `gf_add` (rule R100). -/
theorem residue_sub_residue (a b : Byte) : residue a - residue b = residue (gfAdd a b) := by
  rw [sub_eq_iff_eq_add, ← residue_gfAdd, gfAdd_assoc, gfAdd_self, gfAdd_zero]

theorem eq_of_evalPoint_eq {i j : Nat} (hi : i < 255) (hj : j < 255) (h : evalPoint i = evalPoint j) : i = j := by
  simp only [evalPoint] at h
  bv_omega

/-- The Vandermonde matrix on any `k` distinct points among those of rule R160 is a unit: the difference of two points is a nonzero
byte. -/
theorem isUnit_toMatrix_vandermonde {k : Nat} {rows : Nat → Nat} (lt : ∀ t < k, rows t < 255)
    (inj : ∀ t u, t < k → u < k → rows t = rows u → t = u) :
    IsUnit ((matBuild k k fun t j => gfPow (evalPoint (rows t)) j).toMatrix k k) := by
  have entries : (matBuild k k fun t j => gfPow (evalPoint (rows t)) j).toMatrix k k
      = Matrix.vandermonde fun t : Fin k => residue (evalPoint (rows t)) := by
    ext t j
    simp [MatrixVal.toMatrix, matBuild_cell, Matrix.vandermonde_apply]
  rw [entries, Matrix.isUnit_iff_isUnit_det, Matrix.det_vandermonde]
  refine IsUnit.prod_univ_iff.mpr fun t => IsUnit.prod_iff.mpr fun u hu => ?_
  have apart : evalPoint (rows u) ≠ evalPoint (rows t) := fun h =>
    (Finset.mem_Ioi.mp hu).ne' (Fin.ext (inj u t u.isLt t.isLt (eq_of_evalPoint_eq (lt u u.isLt) (lt t t.isLt) h)))
  rw [residue_sub_residue]
  exact isUnit_residue (mt BitVec.xor_eq_zero_iff.mp apart)

theorem vandermonde_cell {n k i j : Nat} (hi : i < n) (hj : j < k) : (vandermonde n k).cell i j = gfPow (evalPoint i) j :=
  matBuild_cell _ hi hj

theorem wf_vandermonde {n k : Nat} (hn : n ≤ 255) (hk : k ≤ 255) : (vandermonde n k).wf = true := wf_matBuild _ hn hk

/-- `Invert(Vtop)` answers `T` (rules R160, R161 b): the arm of `topInverse` for a singular matrix is dead (log entry 5). -/
theorem invert_vandermonde {k : Nat} (hk : k ≤ 255) : invert (vandermonde k k) = .ok (topInverse k) := by
  obtain ⟨x, hx⟩ := invert_ok_of_isUnit (wf_vandermonde hk hk) rfl rfl
    (isUnit_toMatrix_vandermonde (rows := id) (fun t ht => ht.trans_le hk) fun _ _ _ _ h => h)
  rw [topInverse, hx]

/-! ## The generator matrix -/

section

variable {k : Nat} (hk : k ≤ 255)

include hk

theorem vandermonde_mul_topInverse : matMul (vandermonde k k) (topInverse k) = matIdentity k := by
  obtain ⟨-, -, -, right, -⟩ := invertGivesTheInverse _ _ (wf_vandermonde hk hk) rfl (invert_vandermonde hk)
  exact right

/-- `T` is the inverse of `Vtop` (rule R160), here as matrices of residues. -/
theorem toMatrix_topInverse_mul : (topInverse k).toMatrix k k * (vandermonde k k).toMatrix k k = 1 := by
  rw [mul_eq_one_comm]
  exact (matMul_eq_identity_iff hk rfl rfl (topInverse_dims hk).2).mp (vandermonde_mul_topInverse hk)

theorem toMatrix_gen (n : Nat) : (gen k n).toMatrix n k = (vandermonde n k).toMatrix n k * (topInverse k).toMatrix k k :=
  toMatrix_matMul rfl rfl (topInverse_dims hk).2

/-- `Gen(k, n)` times `Vtop` is `V` (rule R160). -/
theorem gen_mul_vandermonde {n : Nat} (hn : n ≤ 255) : matMul (gen k n) (vandermonde k k) = vandermonde n k := by
  refine MatrixVal.eq_of_toMatrix_eq (p := n) (q := k) (wf_matMul (wf_gen hk hn) (wf_vandermonde hk hk)) (wf_vandermonde hn hk)
    rfl rfl rfl rfl ?_
  rw [toMatrix_matMul (p := n) (r := k) rfl (gen_cols hk n) rfl, toMatrix_gen hk, Matrix.mul_assoc, toMatrix_topInverse_mul hk,
    Matrix.mul_one]

/-- Row `r` of `Gen(k, n)` is row `r` of `V` times `T`. -/
theorem gen_cell {n r c : Nat} (hr : r < n) (hc : c < k) :
    (gen k n).cell r c = xorSum k fun t => gfMul (gfPow (evalPoint r) t) ((topInverse k).cell t c) :=
  (matBuild_cell _ hr (hc.trans_eq (topInverse_dims hk).2.symm)).trans
    (xorSum_congr fun t (ht : t < k) => by rw [vandermonde_cell hr ht])

end

/-- Row `r` of `Gen(k, n)` does not depend on `n` (rule R161 c). -/
theorem gen_cell_congr {k n n' r c : Nat} (hk : k ≤ 255) (hr : r < n) (hr' : r < n') (hc : c < k) :
    (gen k n).cell r c = (gen k n').cell r c := by
  rw [gen_cell hk hr hc, gen_cell hk hr' hc]

/-- The first `k` rows of `Gen(k, n)` are those of `Gen(k, k) = Vtop · T`, the identity (rule R161 a). -/
theorem gen_cell_top {k n r c : Nat} (hk : k ≤ 255) (hkn : k ≤ n) (hr : r < k) (hc : c < k) :
    (gen k n).cell r c = if r = c then 0x01 else 0x00 := by
  rw [gen_cell_congr hk (hr.trans_le hkn) hr hc, gen, vandermonde_mul_topInverse hk, matIdentity, matBuild_cell _ hr hc]

/-- `Gen(1, n)` is all `0x01` (rule R161 d): column 0 of `V` is. -/
theorem gen_one_cell {n r : Nat} (hn : 1 ≤ n) (hr : r < n) : (gen 1 n).cell r 0 = 0x01 :=
  calc (gen 1 n).cell r 0
    _ = (gen 1 n).cell 0 0 := by
      rw [gen_cell (by decide) hr Nat.one_pos, gen_cell (by decide) hn Nat.one_pos]
      exact xorSum_congr fun t ht => by rw [Nat.lt_one_iff.mp ht, gfPow, gfPow]
    _ = 0x01 := gen_cell_top (by decide) hn Nat.one_pos Nat.one_pos

/-- `k` distinct rows of `Gen(k, n)` are the Vandermonde matrix on their points, times `T`. -/
theorem isUnit_toMatrix_gen_rows {k n : Nat} {rows : Nat → Nat} (hk : k ≤ 255) (hn : n ≤ 255) (lt : ∀ t < k, rows t < n)
    (inj : ∀ t u, t < k → u < k → rows t = rows u → t = u) :
    IsUnit ((matBuild k k fun t c => (gen k n).cell (rows t) c).toMatrix k k) := by
  have product : (matBuild k k fun t c => (gen k n).cell (rows t) c).toMatrix k k
      = (matBuild k k fun t j => gfPow (evalPoint (rows t)) j).toMatrix k k * (topInverse k).toMatrix k k := by
    ext t c
    simp [MatrixVal.toMatrix, matBuild_cell, gen_cell hk (lt t t.isLt) c.isLt, Matrix.mul_apply, Finset.sum_range]
  rw [product]
  exact (isUnit_toMatrix_vandermonde (fun t ht => (lt t ht).trans_le hn) inj).mul (.of_mul_eq_one _ (toMatrix_topInverse_mul hk))

/-! ## CFG -/

theorem exec_cfg_of_refused {k n : BitVec 16} {info : Word32} (s : State) (h : checkParams k n = some info) :
    exec (.cfg k n) s = .next (failed s .invalidParameters info) := by
  rw [exec, execCfg, h]
  rfl

theorem exec_cfg_of_passed {k n : BitVec 16} (s : State) (h : checkParams k n = none) :
    exec (.cfg k n) s = complete 0 (s.configure k n) := by
  rw [exec, execCfg, h]

/-! ## The statements -/

/-- Settles O40: CFG answers what `CheckParams` says, and configures the core when it passes. -/
theorem cfgRule : Obligations.CfgRule := by
  refine ⟨?illegal, fun _ _ => decode_eq_ok_iff.mpr rfl, fun s k n h => ?kZero, fun s k n hk h => ?nBelowK,
    fun s k n hk hkn h => ?nAbove255, fun s k n hk hkn hn => ?done⟩
  case illegal => exact illegalUnless_of_ifReservedZero fun _ _ _ _ => ⟨_, _, rfl, by simp [and_assoc]⟩
  case kZero => exact exec_cfg_of_refused s (by simp [checkParams, h])
  case nBelowK => exact exec_cfg_of_refused s (by simp [checkParams, hk.ne', h])
  case nAbove255 => exact exec_cfg_of_refused s (by simp [checkParams, hk.ne', hkn.not_gt, h])
  case done => exact exec_cfg_of_passed s (checkParams_eq_none.mpr ⟨hk, hkn, hn⟩)

/-- Settles O41: the points of `Vtop` are distinct. -/
theorem vandermondeTopIsInvertible : Obligations.VandermondeTopIsInvertible := fun _ _ hk => invert_vandermonde hk

/-- Settles O42: `Gen(k, n)` is `V · T`, row by row, and `T` is the inverse of `Vtop`. -/
theorem generatorIsSystematic : Obligations.GeneratorIsSystematic := by
  refine ⟨fun k n _ hkn hn => ?product, fun k n r c _ hkn hn hr hc => ?top, fun k n r c _ hkn hn hr hc => ?rows,
    fun k _ hk => vandermonde_mul_topInverse hk, fun n r hn _ hr => gen_one_cell hn hr⟩
  case product =>
    have hk := hkn.trans hn
    exact ⟨gen_mul_vandermonde hk hn, wf_gen hk hn, rfl, gen_cols hk n, fun _ _ => vandermonde_cell⟩
  case top => exact gen_cell_top (hkn.trans hn) hkn hr hc
  case rows => exact gen_cell_congr (hkn.trans hn) hr (hr.trans_le hn) hc

/-- Settles O43: the rows form a Vandermonde matrix on distinct points times a unit. -/
theorem anyRowsOfGeneratorInvertible : Obligations.AnyRowsOfGeneratorInvertible := fun _ _ _ _ hkn hn lt inj =>
  have hk := hkn.trans hn
  invert_ok_of_isUnit (wf_matBuild _ hk hk) rfl rfl (isUnit_toMatrix_gen_rows hk hn lt inj)

end Sys2Proof.Machine
end

section
/-! SUPPORT. The encoder (rules R54, R55, R180 to R183 of 44_encoder.md): the bytes of the source blocks, the product with `Gen(K, N)`
and the bytes of the destination region it is written to. An ENC that answers OK writes the product with `Gen(K, N)`, whose first `K`
rows are the identity. -/

namespace Sys2Proof.Machine

open Sys2Proof.Claims

section

variable {s t : State}

/-! ## Regions and blocks -/

theorem State.regionsOk_iff {ns nd : Nat} : s.regionsOk ns nd = true ↔ RegionsOk s ns nd := by
  simp only [State.regionsOk, RegionsOk, Bool.and_eq_true, Bool.not_eq_true', decide_eq_true_eq, decide_eq_false_iff_not, and_assoc]

theorem State.sourceBlock_getD (b : Nat) {j : Nat} (hj : j < s.blen.toNat) : (s.sourceBlock b).getD j 0x00 = sourceByte s b j :=
  memReadBytes_getD _ _ hj

theorem blockByte_map (f : Nat → List Byte) {blocks : List Nat} {b : Nat} (hb : b < blocks.length) (j : Nat) :
    blockByte (blocks.map f) b j = (f blocks[b]).getD j 0x00 := by
  simp [blockByte, List.getD_eq_getElem?_getD, hb]

/-- Byte `j` of destination block `i` is byte `j` of block `i` of what was written (rule R55). -/
theorem State.writeDestination_inside (blocks : List (List Byte)) {count i j : Nat} (hi : i < count) (hj : j < s.blen.toNat) :
    memRead (s.writeDestination blocks count).dmem (destAddress s i j) = blockByte blocks i j := by
  have inside : i * s.blen.toNat + j < (regionBytes blocks count s.blen.toNat).length :=
    calc i * s.blen.toNat + j
      _ < (i + 1) * s.blen.toNat := by rw [Nat.succ_mul]; omega
      _ ≤ count * s.blen.toNat := Nat.mul_le_mul_right _ hi
      _ = _ := (regionBytes_length ..).symm
  rw [State.writeDestination_dmem, destAddress, Nat.add_assoc, memRead_memWriteBytes_inside _ _ _ inside, regionBytes_getD _ hi hj]

/-! ## The product with the generator -/

/-- A configured core holds `Gen(K, N)` in `M[0]` (rule R42 b). -/
theorem State.configWf_of_cfgok (wf : s.configWf) (cfg : s.cfgok = true) :
    1 ≤ s.k.toNat ∧ s.k.toNat ≤ s.n.toNat ∧ s.banks[0] = gen s.k.toNat s.n.toNat := by
  rwa [State.configWf, if_pos cfg] at wf

/-- Byte `j` of shard `i` is the dot product of row `i` of `Gen(K, N)` with byte `j` of the source blocks (rules R180, R181). -/
theorem State.encodedBlocks_byte (wf : s.configWf) (cfg : s.cfgok = true) {i j : Nat} (hi : i < s.n.toNat) (hj : j < s.blen.toNat) :
    blockByte s.encodedBlocks i j = xorSum s.k.toNat fun b => gfMul ((gen s.k.toNat s.n.toNat).cell i b) (sourceByte s b j) := by
  obtain ⟨-, -, generator⟩ := State.configWf_of_cfgok wf cfg
  rw [State.encodedBlocks, generator, blockMul_byte _ _ hi hj, gen_cols (byte_toNat_le s.k)]
  refine xorSum_congr fun b hb => ?_
  rw [blockByte_map _ (by simpa using hb), List.getElem_range, State.sourceBlock_getD _ hj]

/-! ## ENC -/

theorem exec_enc_of_not_cfgok (cfg : s.cfgok = false) : exec .enc s = .next (failed s .notConfigured 0) := by
  rw [exec, execEnc, if_neg (by simp [cfg])]
  rfl

theorem exec_enc_of_not_regionsOk (cfg : s.cfgok = true) (misfit : ¬ RegionsOk s s.k.toNat s.n.toNat) :
    exec .enc s = .next (failed s .badRange 0) := by
  rw [exec, execEnc, if_pos cfg, if_neg (mt State.regionsOk_iff.mp misfit)]
  rfl

theorem exec_enc_of_regionsOk (cfg : s.cfgok = true) (fits : RegionsOk s s.k.toNat s.n.toNat) :
    exec .enc s = complete 0 (s.writeDestination s.encodedBlocks s.n.toNat) := by
  rw [exec, execEnc, if_pos cfg, if_pos (State.regionsOk_iff.mpr fits)]

/-- An ENC that answers OK passed its checks and wrote the shards. -/
theorem exec_enc_ok (h : exec .enc s = .next t) (ok : t.status = .ok) :
    s.cfgok = true ∧ t = (s.writeDestination s.encodedBlocks s.n.toNat).respond .ok 0 := by
  cases cfg : s.cfgok with
  | false =>
    rw [← Host.Outcome.next.inj ((exec_enc_of_not_cfgok cfg).symm.trans h)] at ok
    cases ok
  | true =>
    by_cases fits : RegionsOk s s.k.toNat s.n.toNat
    · exact ⟨rfl, complete_next.mp ((exec_enc_of_regionsOk cfg fits).symm.trans h)⟩
    · rw [← Host.Outcome.next.inj ((exec_enc_of_not_regionsOk cfg fits).symm.trans h)] at ok
      cases ok

/-- What an ENC that answers OK leaves at byte `j` of shard `i` (rule R181). -/
theorem memRead_of_exec_enc_ok (wf : s.configWf) (h : exec .enc s = .next t) (ok : t.status = .ok) {i j : Nat}
    (hi : i < s.n.toNat) (hj : j < s.blen.toNat) :
    memRead t.dmem (destAddress s i j)
      = xorSum s.k.toNat fun b => gfMul ((gen s.k.toNat s.n.toNat).cell i b) (sourceByte s b j) := by
  obtain ⟨cfg, rfl⟩ := exec_enc_ok h ok
  rw [State.respond_dmem, State.writeDestination_inside _ hi hj, State.encodedBlocks_byte wf cfg hi hj]

end

/-! ## The statements -/

/-- Settles O44: the checks in their order, then the product is written to the destination region and nowhere else. -/
theorem encRule : Obligations.EncRule := by
  refine ⟨?illegal, decode_eq_ok_iff.mpr rfl, fun s => exec_enc_of_not_cfgok, fun s => exec_enc_of_not_regionsOk,
    fun s cfg wf fits => ⟨_, exec_enc_of_regionsOk cfg fits, fun i j hi hj => ?shard, fun a ha => ?outside⟩⟩
  case illegal => exact illegalUnless_of_ifReservedZero fun _ _ _ _ => ⟨_, _, rfl, by simp [and_assoc]⟩
  case shard =>
    obtain ⟨-, -, generator⟩ := State.configWf_of_cfgok wf cfg
    rw [generator]
    exact (State.writeDestination_inside _ hi hj).trans (State.encodedBlocks_byte wf cfg hi hj)
  case outside => exact State.writeDestination_outside _ (not_mem_region_of_outsideDestination ha)

/-- Settles O45: row `i < K` of `Gen(K, N)` is row `i` of the identity, and its dot product picks source block `i`. -/
theorem encIsSystematic : Obligations.EncIsSystematic := by
  intro s t wf h ok i j hi hj
  obtain ⟨cfg, -⟩ := exec_enc_ok h ok
  obtain ⟨-, hkn, -⟩ := State.configWf_of_cfgok wf cfg
  calc memRead t.dmem (destAddress s i j)
    _ = xorSum s.k.toNat fun b => gfMul ((gen s.k.toNat s.n.toNat).cell i b) (sourceByte s b j) :=
      memRead_of_exec_enc_ok wf h ok (hi.trans_le hkn) hj
    _ = xorSum s.k.toNat fun b => gfMul (if i = b then 0x01 else 0x00) (sourceByte s b j) :=
      xorSum_congr fun b hb => by rw [gen_cell_top (byte_toNat_le s.k) hkn hi hb]
    _ = sourceByte s i j := by rw [xorSum_unit, if_pos hi]

/-- Settles O46: both runs leave the same dot product, of `Gen(K, N)` and the source bytes. -/
theorem encIsDeterministic : Obligations.EncIsDeterministic := by
  intro s t s' t' wf wf' h h' ok ok' hk hn hblen source i j hi hj
  rw [memRead_of_exec_enc_ok wf h ok hi hj, memRead_of_exec_enc_ok wf' h' ok' (hn ▸ hi) (hblen ▸ hj), ← hk, ← hn]
  exact xorSum_congr fun b hb => by rw [source b j hb hj]

end Sys2Proof.Machine
end

section
/-! SUPPORT. The decoder (rules R54, R201 to R209 of 45_decoder.md). The check and the selection of the presented indices are those of
rule R201; a selection exists once the indices pass, and there is only one. Under the invariant the selected matrix is made of `K`
distinct rows of `Gen(K, N)`, so `Invert` answers its inverse, and the recovery product undoes the encoding. -/

namespace Sys2Proof.Machine

open Sys2Proof.Claims

/-! ## The lowest entries of a strictly rising list -/

/-- The first `k` entries of a strictly rising list are the only rising sequence of `k` entries that no other entry is below. -/
theorem take_eq_map_of_lowest {l : List Nat} {k : Nat} {sel : Nat → Nat} (rising : l.Pairwise (· < ·))
    (mono : ∀ t u, t < u → u < k → sel t < sel u) (mem : ∀ t < k, sel t ∈ l)
    (lowest : ∀ a ∈ l, (∃ t < k, sel t = a) ∨ ∀ t < k, sel t < a) : l.take k = (List.range k).map sel := by
  have selected (a : Nat) : a ∈ (List.range k).map sel ↔ ∃ t < k, sel t = a := by simp
  have split : l = (List.range k).map sel ++ l.filter (· ∉ (List.range k).map sel) := by
    refine rising.eq_of_mem_iff (List.pairwise_append.mpr ⟨?_, rising.filter _, fun a ha b hb => ?_⟩) fun a => ?_
    · exact List.pairwise_map.mpr (List.pairwise_lt_range.imp_of_mem fun _ hu h => mono _ _ h (List.mem_range.mp hu))
    · obtain ⟨t, ht, rfl⟩ := (selected a).mp ha
      obtain ⟨hbl, hb⟩ := List.mem_filter.mp hb
      have unselected := mt (selected b).mpr (of_decide_eq_true hb)
      exact (lowest b hbl).resolve_left unselected t ht
    · rw [List.mem_append, List.mem_filter, decide_eq_true_iff, selected]
      by_cases ha : ∃ t < k, sel t = a
      · obtain ⟨t, ht, rfl⟩ := ha
        exact iff_of_true (mem t ht) (.inl ⟨t, ht, rfl⟩)
      · simp [ha]
  rw [split]
  exact List.take_left' (by simp)

/-- The entries of a strictly rising list by position: each later entry is above the first `k`. -/
theorem lowest_of_getD {l : List Nat} {k a : Nat} (rising : l.Pairwise (· < ·)) (hk : k ≤ l.length) (ha : a ∈ l) :
    (∃ t < k, l.getD t 0 = a) ∨ ∀ t < k, l.getD t 0 < a := by
  obtain ⟨i, hi, rfl⟩ := List.mem_iff_getElem.mp ha
  by_cases hik : i < k
  · exact .inl ⟨i, hik, (List.getElem_eq_getD 0).symm⟩
  · refine .inr fun t ht => ?_
    rw [← List.getElem_eq_getD (h := ht.trans_le hk) 0]
    exact List.pairwise_iff_getElem.mp rising _ _ _ hi (by omega)

/-- The presented indices in ascending order; `sel` is the first `K` of them (rule R201). -/
def ascendingIndices (indices : List Byte) : List Nat := (List.range 256).filter fun v => (indices.map BitVec.toNat).contains v

theorem selectLowest_eq_take (k : Nat) (indices : List Byte) : selectLowest k indices = (ascendingIndices indices).take k := rfl

theorem ascendingIndices_rising (indices : List Byte) : (ascendingIndices indices).Pairwise (· < ·) :=
  List.pairwise_lt_range.filter _

theorem mem_ascendingIndices {indices : List Byte} {a : Nat} : a ∈ ascendingIndices indices ↔ a ∈ indices.map BitVec.toNat := by
  rw [ascendingIndices, List.mem_filter, List.contains_iff_mem, List.mem_range, and_iff_right_iff_imp]
  intro h
  obtain ⟨v, -, rfl⟩ := List.mem_map.mp h
  exact v.isLt

section

variable {s : State} {sel slot : Nat → Nat}

/-! ## The presented indices -/

theorem State.presented_length : s.presented.length = s.pcnt.toNat := by
  have := s.pcnt.isLt
  simp [State.presented]
  omega

theorem State.presented_getD {t : Nat} (ht : t < s.pcnt.toNat) : (s.presented.getD t 0).toNat = index s t := by
  simp only [State.presented, index, List.getD_eq_getElem?_getD, List.getElem?_take, if_pos ht]

theorem State.presented_getElem {t : Nat} (ht : t < s.presented.length) : s.presented[t].toNat = index s t := by
  rw [List.getElem_eq_getD 0, State.presented_getD (State.presented_length ▸ ht)]

/-- Index `a` is presented. -/
theorem State.mem_presented {a : Nat} : a ∈ s.presented.map BitVec.toNat ↔ ∃ p < s.pcnt.toNat, index s p = a := by
  rw [List.mem_map]
  constructor
  · rintro ⟨v, hv, rfl⟩
    obtain ⟨p, hp, rfl⟩ := List.mem_iff_getElem.mp hv
    exact ⟨p, State.presented_length ▸ hp, (State.presented_getElem hp).symm⟩
  · rintro ⟨p, hp, rfl⟩
    exact ⟨_, List.getElem_mem (State.presented_length ▸ hp), State.presented_getElem _⟩

/-! ## The check of the indices (rules R201, R202) -/

/-- The model's test of a slot is the one of rule R201. -/
theorem badSlot_iff {t : Nat} (ht : t < s.pcnt.toNat) :
    (decide (s.n.toNat ≤ (s.presented.getD t 0).toNat) || (s.presented.take t).contains (s.presented.getD t 0)) = true
      ↔ BadSlot s t := by
  rw [Bool.or_eq_true, decide_eq_true_iff, State.presented_getD ht, List.contains_iff_mem, List.mem_iff_getElem]
  refine or_congr_right ⟨?_, ?_⟩
  · rintro ⟨u, hu, h⟩
    have hut : u < t := by simp at hu; omega
    refine ⟨u, hut, ?_⟩
    rw [← State.presented_getD ht, ← h, List.getElem_take, State.presented_getElem]
  · rintro ⟨u, hut, h⟩
    have hul : u < s.presented.length := State.presented_length ▸ hut.trans ht
    refine ⟨u, by simp; omega, BitVec.eq_of_toNat_eq ?_⟩
    rw [List.getElem_take, State.presented_getElem hul, h, State.presented_getD ht]

theorem firstBadSlot_eq_some {t : Nat} (ht : t < s.pcnt.toNat) (bad : BadSlot s t) (first : ∀ u < t, ¬ BadSlot s u) :
    firstBadSlot s.n.toNat s.presented = some t := by
  refine List.find?_range_eq_some.mpr ⟨(badSlot_iff ht).mpr bad, List.mem_range.mpr (State.presented_length ▸ ht), fun u hu => ?_⟩
  rw [Bool.not_eq_true', ← Bool.not_eq_true]
  exact mt (badSlot_iff (hu.trans ht)).mp (first u hu)

theorem firstBadSlot_eq_none (good : ∀ t < s.pcnt.toNat, ¬ BadSlot s t) : firstBadSlot s.n.toNat s.presented = none := by
  refine List.find?_range_eq_none.mpr fun t ht => ?_
  rw [State.presented_length] at ht
  rw [Bool.not_eq_true', ← Bool.not_eq_true]
  exact mt (badSlot_iff ht).mp (good t ht)

theorem checkIndices_of_badSlot {t : Nat} (ht : t < s.pcnt.toNat) (bad : BadSlot s t) (first : ∀ u < t, ¬ BadSlot s u) :
    s.checkIndices = some (.dupOrRangeIndex, infoWord t) := by
  rw [State.checkIndices, firstBadSlot_eq_some ht bad first]

theorem checkIndices_of_lt (good : ∀ t < s.pcnt.toNat, ¬ BadSlot s t) (few : s.pcnt.toNat < s.k.toNat) :
    s.checkIndices = some (.insufficientShards, zext32 s.pcnt) := by
  rw [State.checkIndices, firstBadSlot_eq_none good]
  exact if_pos few

theorem checkIndices_of_indicesOk (ok : IndicesOk s) : s.checkIndices = none := by
  rw [State.checkIndices, firstBadSlot_eq_none ok.1]
  exact if_neg (Nat.not_lt.mpr ok.2)

/-! ## The selection (rule R201) -/

theorem index_lt_of_indicesOk (ok : IndicesOk s) {p : Nat} (hp : p < s.pcnt.toNat) : index s p < s.n.toNat :=
  Nat.lt_of_not_le fun h => ok.1 p hp (.inl h)

/-- No index is presented twice. -/
theorem index_inj_of_indicesOk (ok : IndicesOk s) {p q : Nat} (hp : p < s.pcnt.toNat) (hq : q < s.pcnt.toNat)
    (h : index s p = index s q) : p = q := by
  rcases Nat.lt_trichotomy p q with hpq | hpq | hqp
  · exact absurd (.inr ⟨p, hpq, h⟩) (ok.1 q hq)
  · exact hpq
  · exact absurd (.inr ⟨q, hqp, h.symm⟩) (ok.1 p hp)

theorem selection_eq_of_selected (h : Selected s sel slot) : s.selection = (List.range s.k.toNat).map sel := by
  obtain ⟨mono, slots, lowest⟩ := h
  refine take_eq_map_of_lowest (ascendingIndices_rising s.presented) mono (fun t ht => ?_) fun a ha => ?_
  · exact mem_ascendingIndices.mpr (State.mem_presented.mpr ⟨slot t, slots t ht⟩)
  · obtain ⟨p, hp, rfl⟩ := State.mem_presented.mp (mem_ascendingIndices.mp ha)
    exact lowest p hp

theorem slotOf_eq_of_selected (h : Selected s sel slot) (ok : IndicesOk s) {t : Nat} (ht : t < s.k.toNat) :
    slotOf s.presented (sel t) = slot t := by
  obtain ⟨hslot, hsel⟩ := h.2.1 t ht
  have hlt : slot t < s.presented.length := State.presented_length ▸ hslot
  refine (List.findIdx_eq hlt).mpr ⟨by simpa [State.presented_getElem] using hsel, fun p hp => ?_⟩
  have apart : index s p ≠ sel t := fun e => hp.ne (index_inj_of_indicesOk ok (hp.trans hslot) hslot (e.trans hsel.symm))
  simpa [State.presented_getElem] using apart

/-- As many indices are presented as there are slots, since no two slots hold the same index. -/
theorem ascendingIndices_length (ok : IndicesOk s) : (ascendingIndices s.presented).length = s.pcnt.toNat := by
  have nodup : (s.presented.map BitVec.toNat).Nodup := by
    refine List.nodup_iff_injective_get.mpr fun p q h => Fin.ext ?_
    have hp : p.val < s.pcnt.toNat := by simpa [State.presented_length] using p.isLt
    have hq : q.val < s.pcnt.toNat := by simpa [State.presented_length] using q.isLt
    exact index_inj_of_indicesOk ok hp hq (by simpa [State.presented_getElem] using h)
  have perm := (List.perm_ext_iff_of_nodup (ascendingIndices_rising s.presented).nodup nodup).mpr fun _ => mem_ascendingIndices
  rw [perm.length_eq, List.length_map, State.presented_length]

/-- When the indices pass their check, there is a selection. -/
theorem exists_selected (ok : IndicesOk s) : ∃ sel slot, Selected s sel slot := by
  have hk : s.k.toNat ≤ (ascendingIndices s.presented).length := ascendingIndices_length ok ▸ ok.2
  have rising := ascendingIndices_rising s.presented
  have presented (t : Nat) (ht : t < s.k.toNat) : ∃ p < s.pcnt.toNat, index s p = (ascendingIndices s.presented).getD t 0 := by
    rw [← State.mem_presented, ← mem_ascendingIndices, ← List.getElem_eq_getD (h := ht.trans_le hk)]
    exact List.getElem_mem _
  choose! slot hslot using presented
  refine ⟨fun t => (ascendingIndices s.presented).getD t 0, slot, fun t u htu hu => ?_, hslot, fun p hp => ?_⟩
  · simp only [← List.getElem_eq_getD (h := hu.trans_le hk), ← List.getElem_eq_getD (h := (htu.trans hu).trans_le hk)]
    exact List.pairwise_iff_getElem.mp rising _ _ _ _ htu
  · exact lowest_of_getD rising hk (mem_ascendingIndices.mpr (State.mem_presented.mpr ⟨p, hp, rfl⟩))

/-! ## What is selected and recovered (rules R203, R205) -/

theorem selectedMatrix_eq_of_selected (h : Selected s sel slot) :
    s.selectedMatrix = matBuild s.k.toNat s.k.toNat fun t c => s.banks[0].cell (sel t) c :=
  matBuild_congr fun t ht c _ => by
    rw [selection_eq_of_selected h, ← List.getElem_eq_getD (h := by simpa using ht), List.getElem_map, List.getElem_range]

/-- Block `t` of `in` is the block in the slot of index `sel[t]`. -/
theorem selectedBlocks_byte (h : Selected s sel slot) (ok : IndicesOk s) {t j : Nat} (ht : t < s.k.toNat)
    (hj : j < s.blen.toNat) : blockByte s.selectedBlocks t j = sourceByte s (slot t) j := by
  have hlen : t < s.selection.length := by simpa [selection_eq_of_selected h] using ht
  have entry : s.selection[t] = sel t := by simp [selection_eq_of_selected h]
  rw [State.selectedBlocks, blockByte_map _ hlen, entry, slotOf_eq_of_selected h ok ht, State.sourceBlock_getD _ hj]

/-- Byte `j` of destination block `c` after recovery with a `K × K` matrix. -/
theorem recover_inside (h : Selected s sel slot) (ok : IndicesOk s) {x : MatrixVal} (hr : x.rows = s.k.toNat)
    (hc : x.cols = s.k.toNat) {c j : Nat} (hck : c < s.k.toNat) (hj : j < s.blen.toNat) :
    memRead (s.recover x).dmem (destAddress s c j)
      = xorSum s.k.toNat fun t => gfMul (x.cell c t) (sourceByte s (slot t) j) := by
  refine (State.writeDestination_inside (s := (s.setBank 1 s.selectedMatrix).setBank 2 x) _ hck hj).trans ?_
  rw [blockMul_byte _ _ (hr ▸ hck) hj, hc]
  exact xorSum_congr fun t ht => by rw [selectedBlocks_byte h ok ht hj]

/-- DEC leaves the selected matrix in `M[1]` and its inverse in `M[2]`, and no other bank changes (rule R206). -/
theorem recover_bank (x : MatrixVal) :
    (s.recover x).banks[1] = s.selectedMatrix ∧ (s.recover x).banks[2] = x ∧ (s.recover x).banks[3] = s.banks[3] := by
  simp

theorem recover_outside (x : MatrixVal) {a : Nat} (ha : OutsideDestination s s.k.toNat a) :
    memRead (s.recover x).dmem a = memRead s.dmem a :=
  State.writeDestination_outside (s := (s.setBank 1 s.selectedMatrix).setBank 2 x) _ (not_mem_region_of_outsideDestination ha)

/-! ## DEC, check by check (rule R205) -/

theorem exec_dec_of_not_cfgok (cfg : s.cfgok = false) : exec .dec s = .next (failed s .notConfigured 0) := by
  rw [exec, execDec, if_neg (by simp [cfg])]
  rfl

theorem exec_dec_of_checkIndices {status : Status} {info : Word32} (cfg : s.cfgok = true)
    (h : s.checkIndices = some (status, info)) : exec .dec s = .next (failed s status info) := by
  rw [exec, execDec, if_pos cfg, h]
  rfl

theorem exec_dec_of_not_regionsOk (cfg : s.cfgok = true) (ok : IndicesOk s) (misfit : ¬ RegionsOk s s.pcnt.toNat s.k.toNat) :
    exec .dec s = .next (failed s .badRange 0) := by
  simp only [exec, execDec, if_pos cfg, checkIndices_of_indicesOk ok, if_neg (mt State.regionsOk_iff.mp misfit)]
  rfl

theorem exec_dec_of_singular {column : Nat} (cfg : s.cfgok = true) (ok : IndicesOk s)
    (fits : RegionsOk s s.pcnt.toNat s.k.toNat) (h : invert s.selectedMatrix = .singular column) :
    exec .dec s = .next (failed s .singular (infoWord column)) := by
  simp only [exec, execDec, if_pos cfg, checkIndices_of_indicesOk ok, if_pos (State.regionsOk_iff.mpr fits), h]
  rfl

theorem exec_dec_of_inverse {x : MatrixVal} (cfg : s.cfgok = true) (ok : IndicesOk s)
    (fits : RegionsOk s s.pcnt.toNat s.k.toNat) (h : invert s.selectedMatrix = .ok x) :
    exec .dec s = complete 0 (s.recover x) := by
  simp only [exec, execDec, if_pos cfg, checkIndices_of_indicesOk ok, if_pos (State.regionsOk_iff.mpr fits), h]

/-- The inverse of the selected matrix is a `K × K` matrix value. -/
theorem inverse_dims {x : MatrixVal} (h : invert s.selectedMatrix = .ok x) : x.rows = s.k.toNat ∧ x.cols = s.k.toNat :=
  (invert_ok_shape (wf_selectedMatrix s) rfl h).2

/-! ## DEC in a configured core (rules R207, R208, R209) -/

/-- `X` times `B` times some bytes is those bytes, when `X` is a left inverse of `B`. -/
theorem xorSum_of_matMul_eq_identity {x b : MatrixVal} {q : Nat} (hr : x.rows = q) (hc : x.cols = q) (hb : b.cols = q)
    (h : matMul x b = matIdentity q) (f : Nat → Byte) {c : Nat} (hcq : c < q) :
    (xorSum q fun t => gfMul (x.cell c t) (xorSum q fun u => gfMul (b.cell t u) (f u))) = f c := by
  subst hc
  calc (xorSum x.cols fun t => gfMul (x.cell c t) (xorSum x.cols fun u => gfMul (b.cell t u) (f u)))
    _ = xorSum x.cols fun u => gfMul (xorSum x.cols fun t => gfMul (x.cell c t) (b.cell t u)) (f u) :=
      residue_injective (by
        simp only [residue_xorSum, residue_gfMul, Finset.mul_sum, Finset.sum_mul, mul_assoc]
        exact Finset.sum_comm)
    _ = xorSum x.cols fun u => gfMul ((matMul x b).cell c u) (f u) :=
      xorSum_congr fun u hu => by rw [matMul, matBuild_cell _ (hr ▸ hcq) (hb ▸ hu)]
    _ = xorSum x.cols fun u => gfMul (if c = u then 0x01 else 0x00) (f u) :=
      xorSum_congr fun u hu => by rw [h, matIdentity, matBuild_cell _ hcq hu]
    _ = f c := by rw [xorSum_unit, if_pos hcq]

/-- The identity matrix is its own inverse, and its only one. -/
theorem eq_identity_of_invert {q : Nat} {x : MatrixVal} (hq : q ≤ 255) (h : invert (matIdentity q) = .ok x) : x = matIdentity q := by
  have wf : (matIdentity q).wf = true := wf_matBuild _ hq hq
  obtain ⟨-, -, -, -, -, unique⟩ := invertGivesTheInverse _ _ wf rfl h
  refine (unique _ wf rfl rfl ((matMul_eq_identity_iff hq rfl rfl rfl).mpr ?_)).symm
  rw [toMatrix_matIdentity, mul_one]

section

variable (inv : s.Inv) (cfg : s.cfgok = true) (ok : IndicesOk s) (selected : Selected s sel slot)

include inv cfg ok selected

/-- The selected indices are `K` distinct row numbers of `Gen(K, N)`, so the selected matrix has an inverse (rule R207). -/
theorem exists_inverse : ∃ x, invert s.selectedMatrix = .ok x := by
  obtain ⟨hk, hkn, generator⟩ := State.configWf_of_cfgok inv.configWf cfg
  rw [selectedMatrix_eq_of_selected selected, generator]
  obtain ⟨mono, slots, -⟩ := selected
  refine anyRowsOfGeneratorInvertible s.k.toNat s.n.toNat sel hk hkn (byte_toNat_le s.n) (fun t ht => ?_) fun t u ht hu h => ?_
  · obtain ⟨hslot, hsel⟩ := slots t ht
    exact hsel ▸ index_lt_of_indicesOk ok hslot
  · rcases Nat.lt_trichotomy t u with htu | htu | hut
    · exact absurd h (mono t u htu hu).ne
    · exact htu
    · exact absurd h (mono u t hut ht).ne'

/-- Recovery with the inverse of the selected matrix gives back the blocks the presented shards were made of (rule R209). -/
theorem recover_data {x : MatrixVal} (inverse : invert s.selectedMatrix = .ok x) {d : Nat → Nat → Byte}
    (shards : ∀ p j, p < s.pcnt.toNat → j < s.blen.toNat →
      sourceByte s p j = xorSum s.k.toNat fun t => gfMul ((gen s.k.toNat s.n.toNat).cell (index s p) t) (d t j))
    {c j : Nat} (hc : c < s.k.toNat) (hj : j < s.blen.toNat) : memRead (s.recover x).dmem (destAddress s c j) = d c j := by
  obtain ⟨hr, hcols⟩ := inverse_dims inverse
  obtain ⟨-, -, generator⟩ := State.configWf_of_cfgok inv.configWf cfg
  obtain ⟨-, -, -, -, left, -⟩ := invertGivesTheInverse _ _ (wf_selectedMatrix s) rfl inverse
  have shard (t : Nat) (ht : t < s.k.toNat) :
      sourceByte s (slot t) j = xorSum s.k.toNat fun u => gfMul (s.selectedMatrix.cell t u) (d u j) := by
    obtain ⟨hslot, hsel⟩ := selected.2.1 t ht
    rw [shards _ _ hslot hj, hsel, selectedMatrix_eq_of_selected selected, generator]
    exact xorSum_congr fun u hu => by rw [matBuild_cell _ ht hu]
  rw [recover_inside selected ok hr hcols hc hj]
  exact (xorSum_congr fun t ht => by rw [shard t ht]).trans (xorSum_of_matMul_eq_identity hr hcols rfl left (d · j) hc)

end

end

/-! ## The statements -/

/-- Settles O47: the checks of `execDec`, in its order, are those of the rule. -/
theorem decRefusals : Obligations.DecRefusals := by
  refine ⟨?illegal, decode_eq_ok_iff.mpr rfl, fun s => exec_dec_of_not_cfgok, fun s t cfg ht bad first => ?badSlot,
    fun s cfg good few => ?few, fun s => exec_dec_of_not_regionsOk, fun s sel slot column cfg ok fits selected h => ?singular⟩
  case illegal => exact illegalUnless_of_ifReservedZero fun _ _ _ _ => ⟨_, _, rfl, by simp [and_assoc]⟩
  case badSlot => exact exec_dec_of_checkIndices cfg (checkIndices_of_badSlot ht bad first)
  case few =>
    rw [← zext32_eq_ofNat]
    exact exec_dec_of_checkIndices cfg (checkIndices_of_lt good few)
  case singular => exact exec_dec_of_singular cfg ok fits (selectedMatrix_eq_of_selected selected ▸ h)

/-- Settles O48: the selection is the only one, and the recovery product is written to the destination region and nowhere else. -/
theorem decRecoveryRule : Obligations.DecRecoveryRule := by
  intro s sel slot x cfg ok fits selected inverse
  rw [← selectedMatrix_eq_of_selected selected] at inverse ⊢
  obtain ⟨hr, hc⟩ := inverse_dims inverse
  exact ⟨(s.recover x).dmem, exec_dec_of_inverse cfg ok fits inverse, fun _ _ => recover_inside selected ok hr hc,
    fun _ => recover_outside x⟩

/-- Settles O49: the selected matrix has an inverse, which is what `Invert` answers. -/
theorem decIsNeverSingular : Obligations.DecIsNeverSingular := by
  intro s inv cfg ok fits
  obtain ⟨sel, slot, selected⟩ := exists_selected ok
  obtain ⟨x, inverse⟩ := exists_inverse inv cfg ok selected
  obtain ⟨-, -, -, right, -⟩ := invertGivesTheInverse _ _ (wf_selectedMatrix s) rfl inverse
  obtain ⟨hone, htwo, hthree⟩ := recover_bank (s := s) x
  refine ⟨_, exec_dec_of_inverse cfg ok fits inverse, rfl, ?_, hthree⟩
  rw [State.respond_banks, hone, htwo]
  exact right

/-- Settles O50: the first `K` rows of `Gen(K, N)` are the identity, its inverse is itself, and its rows pick the selected blocks. -/
theorem decOfSystematicShards : Obligations.DecOfSystematicShards := by
  intro s slot inv cfg ok fits selected
  obtain ⟨-, hkn, generator⟩ := State.configWf_of_cfgok inv.configWf cfg
  obtain ⟨x, inverse⟩ := exists_inverse inv cfg ok selected
  have identity : s.selectedMatrix = matIdentity s.k.toNat := by
    rw [selectedMatrix_eq_of_selected selected, generator]
    exact matBuild_congr fun t ht c hc => gen_cell_top (byte_toNat_le s.k) hkn ht hc
  obtain rfl := eq_identity_of_invert (byte_toNat_le s.k) (identity ▸ inverse)
  obtain ⟨hone, htwo, -⟩ := recover_bank (s := s) (matIdentity s.k.toNat)
  refine ⟨_, exec_dec_of_inverse cfg ok fits inverse, rfl, hone.trans identity, htwo, fun c j hc hj => ?_⟩
  calc memRead (s.recover (matIdentity s.k.toNat)).dmem (destAddress s c j)
    _ = xorSum s.k.toNat fun t => gfMul ((matIdentity s.k.toNat).cell c t) (sourceByte s (slot t) j) :=
      recover_inside selected ok rfl rfl hc hj
    _ = xorSum s.k.toNat fun t => gfMul (if c = t then 0x01 else 0x00) (sourceByte s (slot t) j) :=
      xorSum_congr fun t ht => by rw [matIdentity, matBuild_cell _ hc ht]
    _ = sourceByte s (slot c) j := by rw [xorSum_unit, if_pos hc]

/-- Settles O51: `X` times the shards is `X` times the selected matrix times the data. -/
theorem decRecoversTheData : Obligations.DecRecoversTheData := by
  intro s inv cfg ok fits
  obtain ⟨sel, slot, selected⟩ := exists_selected ok
  obtain ⟨x, inverse⟩ := exists_inverse inv cfg ok selected
  exact ⟨_, exec_dec_of_inverse cfg ok fits inverse, rfl, fun d shards c j => recover_data inv cfg ok selected inverse shards⟩

end Sys2Proof.Machine
end

section
/-! SUPPORT. The host procedures Encode and Decode (rules R250 to R259 of 47_host_procedures.md). The actions each presents are followed
one by one to the state ENC or DEC finds; Encode then returns the shards of the padded data, and the recovery of DEC gives the padded
data back from any `k` of them. -/

namespace Sys2Proof.Machine

open Sys2Proof.Claims

/-! ## The padded data (rule R253) -/

theorem length_hostPadded (data : List Byte) {k : Nat} (hk : 1 ≤ k) :
    (hostPadded data k).length = k * hostBlockSize data.length k := by
  have ceil : data.length ≤ hostBlockSize data.length k * k := by
    have := Nat.div_add_mod (data.length + k - 1) k
    have := Nat.mod_lt (data.length + k - 1) hk
    rw [hostBlockSize, Nat.mul_comm]
    omega
  rw [hostPadded, List.length_append, List.length_replicate, hostPadding, hostPaddedLength, Nat.add_sub_cancel' ceil, Nat.mul_comm]

theorem take_hostPadded (data : List Byte) (k : Nat) : (hostPadded data k).take data.length = data := List.take_left' rfl

/-! ## Blocks back to back -/

section

variable {presented : List (Nat × List Byte)} {size : Nat} (sizes : ∀ p ∈ presented, p.2.length = size)

include sizes

theorem length_flatMap_snd : (presented.flatMap Prod.snd).length = presented.length * size := by
  rw [List.length_flatMap, List.map_congr_left sizes]
  simp

/-- Byte `j` of presented block `p`, where all presented blocks have `size` bytes. -/
theorem flatMap_snd_getD {p j : Nat} (hp : p < presented.length) (hj : j < size) :
    (presented.flatMap Prod.snd).getD (p * size + j) 0x00 = presented[p].2.getD j 0x00 := by
  induction presented generalizing p with
  | nil => exact absurd hp (Nat.not_lt_zero p)
  | cons first rest ih =>
    have hfirst : first.2.length = size := sizes first List.mem_cons_self
    rw [List.flatMap_cons]
    cases p with
    | zero =>
      rw [Nat.zero_mul, Nat.zero_add, List.getD_append _ _ _ _ (hfirst ▸ hj)]
      rfl
    | succ p =>
      have skip : (p + 1) * size + j - first.2.length = p * size + j := by rw [hfirst, Nat.succ_mul]; omega
      rw [List.getD_append_right _ _ _ _ (by rw [hfirst, Nat.succ_mul]; omega), skip]
      exact ih (fun q hq => sizes q (List.mem_cons_of_mem _ hq)) (Nat.lt_of_succ_lt_succ hp)

end

/-- Bytes read back to back are the bytes of the blocks. -/
theorem memReadBytes_eq_of_blocks {m : Memory} {base count size : Nat} {bytes : List Byte} (hlen : bytes.length = count * size)
    (h : ∀ c j, c < count → j < size → memRead m (base + c * size + j) = bytes.getD (c * size + j) 0x00) :
    memReadBytes m base (count * size) = bytes := by
  refine List.ext_getElem (by simp [hlen]) fun i hi hi' => ?_
  have hi : i < count * size := hlen ▸ hi'
  have positive : 0 < size := Nat.pos_of_ne_zero fun h => by simp [h] at hi
  have divided : i / size * size + i % size = i := Nat.div_add_mod' i size
  have block := h (i / size) (i % size) (Nat.div_lt_of_lt_mul (Nat.mul_comm .. ▸ hi)) (Nat.mod_lt i positive)
  rw [Nat.add_assoc, divided] at block
  rw [List.getElem_eq_getD 0x00, memReadBytes_getD _ _ hi, block, List.getElem_eq_getD 0x00]

/-! ## Presenting actions one at a time -/

section

variable {s t : State}

theorem presentAll_cons {input : HostInput} (rest : List HostInput) (h : runInput input { s with inputs := [] } = .next t) :
    presentAll (input :: rest) s = presentAll rest t := by
  rw [presentAll, step_cons (rest := []) rfl, h]

theorem presentAll_append {first : List HostInput} (rest : List HostInput) (h : presentAll first s = .next t) :
    presentAll (first ++ rest) s = presentAll rest t := by
  induction first generalizing s with
  | nil => rw [Host.Outcome.next.inj h, List.nil_append]
  | cons input first ih =>
    rw [presentAll] at h
    rw [List.cons_append, presentAll]
    split at h
    · exact ih h
    · exact absurd h (by simp)
    · exact absurd h (by simp)

theorem presentAll_inv {actions : List HostInput} (inv : s.Inv) (h : presentAll actions s = .next t) : t.Inv := by
  induction actions generalizing s with
  | nil => exact Host.Outcome.next.inj h ▸ inv
  | cons input rest ih =>
    rw [presentAll] at h
    split at h
    · next u hu => exact ih (step_inv (inv.takeInput [input]) hu) h
    · exact absurd h (by simp)
    · exact absurd h (by simp)

/-- A command presented by its word is executed. -/
theorem runInput_command (i : Instr) (s : State) : runInput (.command (encode i)) s = exec i s := runCommand_ok (decodeOfEncode i)

/-! ## The actions the procedures are made of (rules R255, R256) -/

theorem memWriteCells_mapIdx (m : Memory) (base : Nat) (bytes : List Byte) :
    memWriteCells m (bytes.mapIdx fun j v => (base + j, v)) = memWriteBytes m base bytes := by
  induction bytes generalizing m base with
  | nil => rfl
  | cons v vs ih =>
    rw [List.mapIdx_cons, memWriteCells, memWriteBytes, ← ih]
    simp only [Nat.add_zero, Nat.add_comm, Nat.add_left_comm]

/-- The state after the host has written bytes that lie in DMEM. -/
def State.loaded (s : State) (base : Nat) (bytes : List Byte) : State :=
  { s with inputs := [], dmem := memWriteBytes s.dmem base bytes }

theorem presentAll_hostWriteAt {base : Nat} {bytes : List Byte} (inside : base + bytes.length ≤ s.dmemBytes.toNat) :
    presentAll [hostWriteAt base bytes] s = .next (s.loaded base bytes) := by
  refine presentAll_cons [] ((runDmemWrite_of_hasByte fun c hc => ?_).trans ?_)
  · obtain ⟨j, hj, rfl⟩ := List.mem_mapIdx.mp hc
    exact decide_eq_true (by simp only; omega)
  · rw [memWriteCells_mapIdx]
    rfl

/-- The state after the host has set SRC, DST and BLEN. -/
def State.withRegions (s : State) (src dst size : Nat) : State :=
  { answered s 0 with
    inputs := [], src := BitVec.ofNat 32 src, dst := BitVec.ofNat 32 dst, blen := BitVec.ofNat 32 size, ccnt := s.ccnt + 1 + 1 + 1 }

theorem presentAll_hostSetRegions (s : State) (src dst size : Nat) :
    presentAll (hostSetRegions src dst size) s = .next (s.withRegions src dst size) := by
  rw [hostSetRegions, presentAll_cons _ (runInput_command _ _), presentAll_cons _ (runInput_command _ _),
    presentAll_cons _ (runInput_command _ _)]
  rfl


/-- The indices stand in the first slots, in their order (rule R256, step 2). -/
def HoldsIndices (slots : Vector Byte 256) (indices : List Nat) : Prop :=
  ∀ p (hp : p < indices.length), slots[p]? = some (BitVec.ofNat 8 indices[p])

theorem HoldsIndices.append {slots : Vector Byte 256} {indices : List Nat} (h : HoldsIndices slots indices) (i : Nat)
    {slot : Byte} (hslot : slot.toNat = indices.length) :
    HoldsIndices (slots.set slot.toNat (BitVec.ofNat 8 i) slot.isLt) (indices ++ [i]) := by
  intro p hp
  rw [Vector.getElem?_set, hslot]
  rw [List.length_append, List.length_singleton] at hp
  rcases Nat.lt_succ_iff_lt_or_eq.mp hp with hp | rfl
  · rw [if_neg hp.ne', h p hp, List.getElem_append_left hp]
  · simp

/-- PIDXW for each index, slot by slot. -/
theorem presentAll_pidxw (s : State) {indices : List Nat} (hlen : indices.length ≤ 256) :
    ∃ slots status rval ccnt inputs,
      presentAll (indices.mapIdx fun j i => .command (encode (.pidxw (BitVec.ofNat 8 j) (BitVec.ofNat 8 i)))) s
          = .next { s with pidx := slots, status := status, rval := rval, ccnt := ccnt, inputs := inputs }
        ∧ HoldsIndices slots indices := by
  induction indices using List.reverseRecOn with
  | nil => exact ⟨s.pidx, s.status, s.rval, s.ccnt, s.inputs, rfl, fun p hp => absurd hp (Nat.not_lt_zero p)⟩
  | append_singleton indices i ih =>
    rw [List.length_append, List.length_singleton] at hlen
    obtain ⟨slots, status, rval, ccnt, inputs, run, holds⟩ := ih (by omega)
    have hslot : (BitVec.ofNat 8 indices.length).toNat = indices.length := by
      rw [BitVec.toNat_ofNat, Nat.mod_eq_of_lt (by omega)]
    refine ⟨_, .ok, 0, ccnt + 1, [], ?_, holds.append i hslot⟩
    rw [List.mapIdx_concat, presentAll_append _ run, presentAll_cons [] (runInput_command _ _)]
    rfl

/-- CRW of PCNT with a value that fits its 8 bits (rules R34, R232). -/
theorem exec_crw_pcnt (s : State) {v : Word32} (hv : v.toNat ≤ 255) :
    exec (.crw 6 v) s = .next { answered s 0 with pcnt := BitVec.ofNat 8 v.toNat } := by
  have written : crWrite 6 v s = some { s with pcnt := v.extractLsb' 0 8 } := if_neg (Nat.not_lt.mpr hv)
  rw [exec, execCrw, written]
  rfl

/-- The state after the host has filled PIDX and set PCNT. -/
def State.withIndices (s : State) (slots : Vector Byte 256) (count : Nat) (ccnt : Word32) : State :=
  { answered s 0 with inputs := [], pidx := slots, pcnt := BitVec.ofNat 8 count, ccnt := ccnt }

theorem presentAll_hostSetIndices (s : State) {indices : List Nat} (hlen : indices.length ≤ 255) :
    ∃ slots ccnt, presentAll (hostSetIndices indices) s = .next (s.withIndices slots indices.length ccnt)
      ∧ HoldsIndices slots indices := by
  obtain ⟨slots, status, rval, ccnt, inputs, run, holds⟩ := presentAll_pidxw s (hlen.trans (by decide))
  have hvalue : (BitVec.ofNat 32 indices.length).toNat = indices.length := by
    rw [BitVec.toNat_ofNat, Nat.mod_eq_of_lt (by omega)]
  refine ⟨slots, ccnt + 1, ?_, holds⟩
  rw [hostSetIndices, presentAll_append _ run,
    presentAll_cons [] ((runInput_command _ _).trans (exec_crw_pcnt _ (hvalue.trans_le hlen))), hvalue]
  rfl

/-! ## CFG by the host (rules R255, R256, step 1) -/

/-- The parameters CFG accepts (rule R163). -/
def ParamsOk (k n : Nat) : Prop := 1 ≤ k ∧ k ≤ n ∧ n ≤ 255

/-- The core after the host has configured it. -/
def State.hostConfigured (s : State) (k n : Nat) : State :=
  (State.configure { s with inputs := [] } (BitVec.ofNat 16 k) (BitVec.ofNat 16 n)).respond .ok 0

theorem toNat_ofNat_16 {x : Nat} (h : x ≤ 65535) : (BitVec.ofNat 16 x).toNat = x := by
  rw [BitVec.toNat_ofNat, Nat.mod_eq_of_lt (by omega)]

theorem hostConfigure_eq_ok_iff {k n : Nat} : hostConfigure s k n = .ok t ↔ ParamsOk k n ∧ t = s.hostConfigured k n := by
  unfold hostConfigure
  split
  · next large => exact iff_of_false (by simp) fun ⟨⟨_, hkn, hn⟩, _⟩ => by omega
  next small =>
  have hk : (BitVec.ofNat 16 k).toNat = k := toNat_ofNat_16 (by omega)
  have hn : (BitVec.ofNat 16 n).toNat = n := toNat_ofNat_16 (by omega)
  cases check : checkParams (BitVec.ofNat 16 k) (BitVec.ofNat 16 n) with
  | none =>
    have valid : ParamsOk k n := by simpa only [ParamsOk, hk, hn] using checkParams_eq_none.mp check
    rw [presentAll_cons [] ((runInput_command _ _).trans (exec_cfg_of_passed _ check))]
    simp [presentAll, valid, State.hostConfigured, eq_comm]
  | some info =>
    have invalid : ¬ ParamsOk k n := fun valid => by
      rw [checkParams_eq_none.mpr (by simpa only [ParamsOk, hk, hn] using valid)] at check
      cases check
    rw [presentAll_cons [] ((runInput_command _ _).trans (exec_cfg_of_refused _ check))]
    simp [presentAll, invalid]

section

variable {k n : Nat} (valid : ParamsOk k n)

include valid

theorem hostConfigured_k : (s.hostConfigured k n).k.toNat = k := by
  obtain ⟨-, hkn, hn⟩ := valid
  have hk : (BitVec.ofNat 16 k).toNat = k := toNat_ofNat_16 (by omega)
  exact (low_byte_toNat (hk.trans_le (hkn.trans hn))).trans hk

theorem hostConfigured_n : (s.hostConfigured k n).n.toNat = n := by
  obtain ⟨-, -, hn⟩ := valid
  have hn' : (BitVec.ofNat 16 n).toNat = n := toNat_ofNat_16 (by omega)
  exact (low_byte_toNat (hn'.trans_le hn)).trans hn'

theorem hostConfigured_inv (inv : s.Inv) : (s.hostConfigured k n).Inv := by
  obtain ⟨hk, hkn, hn⟩ := valid
  have hk' : (BitVec.ofNat 16 k).toNat = k := toNat_ofNat_16 (by omega)
  have hn' : (BitVec.ofNat 16 n).toNat = n := toNat_ofNat_16 (by omega)
  have passed := checkParams_eq_none.mpr ⟨hk'.symm ▸ hk, hk'.symm ▸ hn'.symm ▸ hkn, hn'.trans_le hn⟩
  exact ((inv.takeInput []).update (.cfg passed)).respond .ok 0

end

/-! ## The regions of ENC and DEC (rules R54, R255, R256) -/

section

variable {src dst ns nd size : Nat} (positive : 1 ≤ ns) (fits : hostRegionsFit s src (ns * size) dst (nd * size) = true)

theorem hostRegionsFit_iff {srcSize dstSize : Nat} :
    hostRegionsFit s src srcSize dst dstSize = true ↔ src + srcSize ≤ s.dmemBytes.toNat ∧ dst + dstSize ≤ s.dmemBytes.toNat
      ∧ ¬ (0 < srcSize ∧ 0 < dstSize ∧ src < dst + dstSize ∧ dst < src + srcSize) := by
  simp only [hostRegionsFit, Bool.and_eq_true, Bool.not_eq_true', decide_eq_true_eq, decide_eq_false_iff_not, and_assoc]

include positive fits

/-- Addresses and sizes of buffers that fit DMEM fit the 32-bit control registers. -/
theorem withRegions_toNat : (s.withRegions src dst size).src.toNat = src ∧ (s.withRegions src dst size).dst.toNat = dst
    ∧ (s.withRegions src dst size).blen.toNat = size := by
  obtain ⟨hsrc, hdst, -⟩ := hostRegionsFit_iff.mp fits
  have hsize : size ≤ ns * size := Nat.le_mul_of_pos_left size positive
  have hbytes : s.dmemBytes.toNat < 2 ^ 32 := s.dmemBytes.isLt
  simp only [State.withRegions, BitVec.toNat_ofNat]
  refine ⟨Nat.mod_eq_of_lt ?_, Nat.mod_eq_of_lt ?_, Nat.mod_eq_of_lt ?_⟩ <;> omega

theorem regionsOk_withRegions : RegionsOk (s.withRegions src dst size) ns nd := by
  obtain ⟨hsrc, hdst, hsize⟩ := withRegions_toNat positive fits
  rw [RegionsOk, hsrc, hdst, hsize]
  exact hostRegionsFit_iff.mp fits

theorem destAddress_withRegions (i j : Nat) : destAddress (s.withRegions src dst size) i j = dst + i * size + j := by
  obtain ⟨-, hdst, hsize⟩ := withRegions_toNat positive fits
  rw [destAddress, hdst, hsize]

/-- The source region holds the bytes the host wrote to it. -/
theorem sourceByte_withRegions {m : Memory} {bytes : List Byte} (loaded : s.dmem = memWriteBytes m src bytes)
    (hlen : bytes.length = ns * size) {b j : Nat} (hb : b < ns) (hj : j < size) :
    sourceByte (s.withRegions src dst size) b j = bytes.getD (b * size + j) 0x00 := by
  obtain ⟨hsrc, -, hsize⟩ := withRegions_toNat positive fits
  have inside : b * size + j < bytes.length :=
    calc b * size + j
      _ < (b + 1) * size := by rw [Nat.succ_mul]; omega
      _ ≤ ns * size := Nat.mul_le_mul_right _ hb
      _ = bytes.length := hlen.symm
  rw [sourceByte, hsrc, hsize, Nat.add_assoc]
  exact (congrArg (memRead · _) loaded).trans (memRead_memWriteBytes_inside m src bytes inside)

end

/-! ## Encode (rule R255) -/

/-- Byte `j` of shard `i` of bytes that are `k` blocks of `size` bytes back to back (rule R181). -/
def shardByte (k n size : Nat) (bytes : List Byte) (i j : Nat) : Byte :=
  xorSum k fun b => gfMul ((gen k n).cell i b) (bytes.getD (b * size + j) 0x00)

/-- Shard `i`. -/
def shardOf (k n size : Nat) (bytes : List Byte) (i : Nat) : List Byte := (List.range size).map (shardByte k n size bytes i)

section

variable {k n src dst size : Nat} {bytes : List Byte}

/-- The actions of Encode leave the shards of the bytes it wrote. -/
theorem presentAll_encode (inv : s.Inv) (cfg : s.cfgok = true) (hk : s.k.toNat = k) (hn : s.n.toNat = n)
    (hlen : bytes.length = k * size) (fits : hostRegionsFit s src (k * size) dst (n * size) = true) :
    ∃ t, presentAll (hostWriteAt src bytes :: hostSetRegions src dst size ++ [.command (encode .enc)]) s = .next t
      ∧ ∀ i < n, memReadBytes t.dmem (dst + i * size) size = shardOf k n size bytes i := by
  subst hk hn
  have inside : src + bytes.length ≤ s.dmemBytes.toNat := hlen ▸ (hostRegionsFit_iff.mp fits).1
  have ready : presentAll (hostWriteAt src bytes :: hostSetRegions src dst size) s
      = .next ((s.loaded src bytes).withRegions src dst size) :=
    (presentAll_append _ (presentAll_hostWriteAt inside)).trans (presentAll_hostSetRegions ..)
  obtain ⟨positive, -⟩ := State.configWf_of_cfgok inv.configWf cfg
  have fits : hostRegionsFit (s.loaded src bytes) src (s.k.toNat * size) dst (s.n.toNat * size) = true := fits
  obtain ⟨-, -, hsize⟩ := withRegions_toNat positive fits
  have encoded := exec_enc_of_regionsOk (s := (s.loaded src bytes).withRegions src dst size) cfg
    (regionsOk_withRegions positive fits)
  refine ⟨_, (presentAll_append _ ready).trans (presentAll_cons [] ((runInput_command _ _).trans encoded)), fun i hi => ?_⟩
  refine List.map_congr_left fun j hj => ?_
  have hj := List.mem_range.mp hj
  rw [← destAddress_withRegions positive fits,
    memRead_of_exec_enc_ok (presentAll_inv inv ready).configWf encoded rfl hi (hsize.symm ▸ hj)]
  exact xorSum_congr fun b hb => congrArg (gfMul _) (sourceByte_withRegions positive fits rfl hlen hb hj)

/-- What Encode returns when it succeeds, and the core as it leaves it. -/
theorem hostEncode_ok {data : List Byte} {e : HostEncoded} (inv : s.Inv) (h : hostEncode s data k n src dst = .ok e) :
    ParamsOk k n ∧ e.core.Inv ∧ e.metadata = hostMetadataOf data k n
      ∧ e.shards = (List.range n).map (shardOf k n (hostBlockSize data.length k) (hostPadded data k)) := by
  unfold hostEncode at h
  split at h
  · exact absurd h (by simp)
  next s1 configured =>
  obtain ⟨valid, rfl⟩ := hostConfigure_eq_ok_iff.mp configured
  have inv := hostConfigured_inv valid inv
  dsimp only at h
  split at h
  · next fits =>
    obtain ⟨t, run, shards⟩ := presentAll_encode inv rfl (hostConfigured_k valid) (hostConfigured_n valid)
      (length_hostPadded data valid.1) fits
    rw [run] at h
    cases h
    exact ⟨valid, presentAll_inv inv run, rfl, List.map_congr_left fun i hi => shards i (List.mem_range.mp hi)⟩
  · exact absurd h (by simp)

end

/-! ## The indices the host presents (rule R256, step 2) -/

section

variable {indices : List Nat}

theorem index_of_holdsIndices (holds : HoldsIndices s.pidx indices) {p : Nat} (hp : p < indices.length)
    (byte : indices[p] < 256) : index s p = indices[p] := by
  rw [index, List.getD_eq_getElem?_getD, Vector.getElem?_toList, holds p hp, Option.getD_some, BitVec.toNat_ofNat,
    Nat.mod_eq_of_lt byte]

/-- Distinct indices below `N`, `K` of them or more, pass the check (rule R201). -/
theorem indicesOk_of_holdsIndices (holds : HoldsIndices s.pidx indices) (count : s.pcnt.toNat = indices.length)
    (lt : ∀ i ∈ indices, i < s.n.toNat) (nodup : indices.Nodup) (enough : s.k.toNat ≤ indices.length) : IndicesOk s := by
  have held (p : Nat) (hp : p < indices.length) : index s p = indices[p] :=
    index_of_holdsIndices holds hp ((lt _ (List.getElem_mem hp)).trans s.n.isLt)
  refine ⟨fun p hp bad => ?_, count ▸ enough⟩
  rw [count] at hp
  rcases bad with large | ⟨q, hqp, same⟩
  · exact absurd (lt _ (List.getElem_mem hp)) (Nat.not_lt.mpr (held p hp ▸ large))
  · rw [held p hp, held q (hqp.trans hp)] at same
    exact hqp.ne ((nodup.getElem_inj_iff).mp same)

end

theorem length_le_of_nodup_of_lt {l : List Nat} {n : Nat} (nodup : l.Nodup) (lt : ∀ a ∈ l, a < n) : l.length ≤ n := by
  simpa using (List.subperm_of_subset nodup fun a ha => List.mem_range.mpr (lt a ha)).length_le

/-! ## Decode (rule R256) -/

/-- What DEC finds once the host has presented `(index, block)` pairs from `src` and set a destination of `count` blocks. -/
structure ReadyToDecode (presented : List (Nat × List Byte)) (size dst count : Nat) (s : State) : Prop where
  indices : HoldsIndices s.pidx (presented.map Prod.fst)
  pcnt : s.pcnt.toNat = presented.length
  blen : s.blen.toNat = size
  regions : RegionsOk s presented.length count
  source : ∀ p j (hp : p < presented.length), j < size → sourceByte s p j = presented[p].2.getD j 0x00
  dest : ∀ c j, destAddress s c j = dst + c * size + j

theorem ReadyToDecode.takeInput {presented : List (Nat × List Byte)} {size dst count : Nat}
    (h : ReadyToDecode presented size dst count s) (rest : List HostInput) :
    ReadyToDecode presented size dst count { s with inputs := rest } :=
  ⟨h.indices, h.pcnt, h.blen, h.regions, h.source, h.dest⟩

section

variable {k n src dst size count : Nat} {bytes : List Byte} {presented : List (Nat × List Byte)}

/-- The actions of Decode before DEC present the pairs and keep the configuration. -/
theorem presentAll_pairs (sizes : ∀ p ∈ presented, p.2.length = size) (positive : 1 ≤ presented.length)
    (few : presented.length ≤ 255) (fits : hostRegionsFit s src (presented.length * size) dst (count * size) = true) :
    ∃ t, presentAll (hostWriteAt src (presented.flatMap Prod.snd) :: hostSetIndices (presented.map Prod.fst)
          ++ hostSetRegions src dst size) s = .next t
      ∧ t.cfgok = s.cfgok ∧ t.k = s.k ∧ t.n = s.n ∧ ReadyToDecode presented size dst count t := by
  have hlen := length_flatMap_snd sizes
  have inside : src + (presented.flatMap Prod.snd).length ≤ s.dmemBytes.toNat := hlen ▸ (hostRegionsFit_iff.mp fits).1
  obtain ⟨slots, ccnt, indexed, holds⟩ := presentAll_hostSetIndices (s.loaded src (presented.flatMap Prod.snd))
    (indices := presented.map Prod.fst) (by simpa using few)
  rw [List.length_map] at indexed
  have fits : hostRegionsFit ((s.loaded src (presented.flatMap Prod.snd)).withIndices slots presented.length ccnt) src
    (presented.length * size) dst (count * size) = true := fits
  obtain ⟨-, -, hsize⟩ := withRegions_toNat positive fits
  refine ⟨_, (presentAll_append _ ((presentAll_append _ (presentAll_hostWriteAt inside)).trans indexed)).trans
    (presentAll_hostSetRegions ..), rfl, rfl, rfl, holds, ?_, hsize, regionsOk_withRegions positive fits, fun p j hp hj => ?_,
    destAddress_withRegions positive fits⟩
  · exact (BitVec.toNat_ofNat ..).trans (Nat.mod_eq_of_lt (by omega))
  · exact (sourceByte_withRegions positive fits rfl hlen hp hj).trans (flatMap_snd_getD sizes hp hj)

variable (shards : ∀ p ∈ presented, p.1 < n ∧ p.2 = shardOf k n size bytes p.1) (nodup : (presented.map Prod.fst).Nodup)
  (enough : k ≤ presented.length)

include shards

theorem presented_index_lt : ∀ i ∈ presented.map Prod.fst, i < n := by
  intro i hi
  obtain ⟨p, hp, rfl⟩ := List.mem_map.mp hi
  exact (shards p hp).1

theorem presented_size : ∀ p ∈ presented, p.2.length = size := by
  intro p hp
  rw [(shards p hp).2, shardOf, List.length_map, List.length_range]

include nodup

theorem presented_length_le : presented.length ≤ n := by
  simpa using length_le_of_nodup_of_lt nodup (presented_index_lt shards)

include enough

/-- DEC gives back the bytes the presented shards were made of (rule R209). -/
theorem exec_dec_of_ready (inv : s.Inv) (cfg : s.cfgok = true) (hk : s.k.toNat = k) (hn : s.n.toNat = n)
    (hlen : bytes.length = k * size) (ready : ReadyToDecode presented size dst k s) :
    ∃ t, exec .dec s = .next t ∧ t.status = .ok ∧ memReadBytes t.dmem dst (k * size) = bytes := by
  subst hk hn
  have lt := presented_index_lt shards
  obtain ⟨holds, pcnt, rfl, regions, source, dest⟩ := ready
  have ok : IndicesOk s := indicesOk_of_holdsIndices holds (by simpa using pcnt) lt nodup (by simpa using enough)
  obtain ⟨t, run, status, recovered⟩ := decRecoversTheData s inv cfg ok (pcnt.symm ▸ regions)
  refine ⟨t, run, status, memReadBytes_eq_of_blocks hlen fun c j hc hj => ?_⟩
  rw [← dest]
  refine recovered (fun b j => bytes.getD (b * s.blen.toNat + j) 0x00) (fun p j hp hj => ?_) c j hc hj
  have hp : p < presented.length := pcnt ▸ hp
  have hindex : index s p = presented[p].1 := by
    have held := index_of_holdsIndices holds (p := p) (by simpa using hp)
      ((lt _ (List.getElem_mem _)).trans s.n.isLt)
    rwa [List.getElem_map] at held
  rw [source p j hp hj, (shards _ (List.getElem_mem hp)).2, hindex]
  simp [shardOf, shardByte, List.getD_eq_getElem?_getD, hj]

/-- Decode, presented with shards of `bytes` at addresses that fit, recovers `bytes`. -/
theorem hostDecode_of_shards {metadata : HostMetadata} (inv : s.Inv) (valid : ParamsOk metadata.k metadata.n)
    (hk : metadata.k = k) (hn : metadata.n = n) (hsize : metadata.blockSize = size) (hlen : bytes.length = k * size)
    (fits : hostRegionsFit s src (presented.length * size) dst (k * size) = true) :
    hostDecode s presented metadata src dst = hostFinishDecode bytes metadata := by
  subst hk hn hsize
  have sizes := presented_size shards
  have few : presented.length ≤ 255 := (presented_length_le shards nodup).trans valid.2.2
  obtain ⟨u, pairs, hcfg, hk, hn, ready⟩ := presentAll_pairs (s := s.hostConfigured metadata.k metadata.n) sizes
    (valid.1.trans enough) few fits
  have inv := hostConfigured_inv valid inv
  obtain ⟨t, run, status, recovered⟩ := exec_dec_of_ready shards nodup enough
    ((presentAll_inv inv pairs).takeInput []) hcfg (hk ▸ hostConfigured_k valid) (hn ▸ hostConfigured_n valid) hlen
    (ready.takeInput [])
  have answer := (presentAll_append _ pairs).trans (presentAll_cons [] ((runInput_command _ _).trans run))
  have blocks : (presented.any fun p => p.2.length != metadata.blockSize) = false := by
    simpa using fun i b hb => sizes (i, b) hb
  have bytesOnly : ¬ (255 < presented.length ∨ (presented.any fun p => decide (255 < p.1)) = true) := by
    have small (p : Nat × List Byte) (hp : p ∈ presented) : p.1 ≤ 255 := (shards p hp).1.le.trans valid.2.2
    simpa [few] using fun i b hb => small (i, b) hb
  have fits : hostRegionsFit (s.hostConfigured metadata.k metadata.n) src (presented.length * metadata.blockSize) dst
    (metadata.k * metadata.blockSize) = true := fits
  simp only [hostDecode, blocks, hostConfigure_eq_ok_iff.mpr ⟨valid, rfl⟩, if_neg bytesOnly, if_pos fits, answer, presentAll]
  rw [if_neg Bool.false_ne_true, if_pos status, recovered]

end

end

/-- The digest of the data is the one Encode recorded, whatever the hash (rules R256, R258). -/
theorem hostFinishDecode_hostPadded (data : List Byte) (k n : Nat) :
    hostFinishDecode (hostPadded data k) (hostMetadataOf data k n) = .ok data := by
  simp [hostFinishDecode, hostMetadataOf, take_hostPadded]

/-! ## The statement -/

/-- Settles O60: Encode returns the shards of the padded data, Decode recovers the padded data from them, and cuts off the padding. -/

theorem hostDecodeInvertsEncode : Obligations.HostDecodeInvertsEncode := by
  intro s data k n src dst e inv encoded presented src' dst' shards nodup enough fits
  obtain ⟨valid, coreInv, hmetadata, hshards⟩ := hostEncode_ok inv encoded
  rw [hmetadata] at fits ⊢
  have made : ∀ p ∈ presented, p.1 < n ∧ p.2 = shardOf k n (hostBlockSize data.length k) (hostPadded data k) p.1 := by
    intro p hp
    have listed := shards p hp
    rw [hshards] at listed
    obtain ⟨hi, hshard⟩ := List.getElem?_eq_some_iff.mp listed
    rw [List.length_map, List.length_range] at hi
    exact ⟨hi, by rw [← hshard, List.getElem_map, List.getElem_range]⟩
  rw [hostDecode_of_shards made nodup enough coreInv valid rfl rfl rfl (length_hostPadded data valid.1) fits]
  exact hostFinishDecode_hostPadded data k n

end Sys2Proof.Machine
end

section
/-! SUPPORT. The system and control commands (rules R230 to R235 of 46_system_commands.md): the reset values, CONFIG as a number, and
the presented-index slot a number names. -/

namespace Sys2Proof.Machine

open Sys2Proof.Claims

/-! ## CONFIG (rules R30, R32) -/

/-- A byte joined at the low end takes the lowest eight places. -/
theorem toNat_append_byte {m : Nat} (x : BitVec m) (y : Byte) : (x ++ y).toNat = x.toNat * 2 ^ 8 + y.toNat := by
  rw [BitVec.toNat_append, ← Nat.shiftLeft_add_eq_or_of_lt y.isLt, Nat.shiftLeft_eq]

/-- The fields of CONFIG stand side by side (rule R30), so its value is the sum of theirs, each times the weight of its place. -/
theorem State.config_eq_ofNat (s : State) :
    s.config = BitVec.ofNat 32 (s.k.toNat + 256 * s.n.toNat + if s.cfgok then 65536 else 0) := by
  have flag : (0#15 ++ BitVec.ofBool s.cfgok).toNat = if s.cfgok then 1 else 0 := by cases s.cfgok <;> rfl
  have hk := s.k.isLt
  have hn := s.n.isLt
  refine BitVec.eq_of_toNat_eq ?_
  rw [BitVec.toNat_ofNat, State.config, toNat_append_byte, toNat_append_byte, flag]
  split <;> omega

/-! ## The reset values (rules R231, R310) -/

/-- The size and the contents of DMEM are no reset values. -/
theorem resetValues_powerOn (bytes : Word32) (mem : Memory) : ResetValues (State.powerOn bytes mem) :=
  ⟨fun r => Vector.getElem_replicate r.isLt, fun b => Vector.getElem_replicate b.isLt, rfl, rfl, rfl,
    State.config_eq_ofNat _, rfl, rfl, rfl, rfl, fun slot => Vector.getElem_replicate slot.isLt, rfl, rfl, rfl⟩

/-- SRST and the reset input leave the power-on state but for the model's own fields, which are no reset values (log entry 9). -/
theorem resetValues_resetKeepingDmem (s : State) : ResetValues s.resetKeepingDmem := resetValues_powerOn s.dmemBytes s.dmem

/-! ## What each command does on operands that exist -/

section

variable (s : State)

/-- CRR of a control register that exists completes with its value. -/
theorem exec_crr_of_crRead {cr : Byte} {v : Word32} (h : crRead cr s = some v) : exec (.crr cr) s = .next (answered s v) := by
  rw [exec, execCrr, h]
  rfl

/-- Every slot has a number that an 8-bit field holds. -/
theorem toNat_slotField (slot : Fin 256) : (BitVec.ofNat 8 slot.val).toNat = slot.val := by
  rw [BitVec.toNat_ofNat, Nat.mod_eq_of_lt slot.isLt]

theorem State.setPidx_slotField (slot : Fin 256) (v : Byte) :
    s.setPidx (BitVec.ofNat 8 slot.val) v = { s with pidx := s.pidx.set slot v } := by
  simp only [State.setPidx, toNat_slotField]

theorem State.pidxAt_slotField (slot : Fin 256) : s.pidxAt (BitVec.ofNat 8 slot.val) = s.pidx[slot] := by
  simp only [State.pidxAt, toNat_slotField, Fin.getElem_fin]

end

/-! ## The statements -/

/-- Settles O14: the next state is the power-on state with DMEM and the model's own fields kept. -/
theorem srstRule : Obligations.SrstRule := by
  refine ⟨?illegal, decode_eq_ok_iff.mpr rfl, fun s => ?done⟩
  case illegal => exact illegalUnless_of_ifReservedZero fun _ _ _ _ => ⟨_, _, rfl, by simp [and_assoc]⟩
  case done => exact ⟨s.resetKeepingDmem, rfl, resetValues_resetKeepingDmem s, rfl, rfl, rfl, rfl⟩

/-- Settles O18: the four registers that can be written, one by one; every other write is refused by the table of rule R78. -/
theorem crwRule : Obligations.CrwRule := by
  refine ⟨?illegal, fun _ _ => decode_eq_ok_iff.mpr rfl, fun s v =>
    ⟨rfl, rfl, rfl, exec_crw_pcnt s, fun h => ?large, fun cr h => ?other⟩⟩
  case illegal => exact illegalUnless_of_ifReservedZero fun _ _ _ _ => ⟨_, _, rfl, by simp⟩
  case large => exact exec_of_not_wellFormed s (by simpa [Instr.wellFormed] using h)
  case other =>
    refine exec_of_not_wellFormed s ?_
    simp only [WellFormed, Instr.wellFormed, Bool.and_eq_true, decide_eq_true_eq]
    omega

/-- Settles O19: the nine registers of the map, one by one; CONFIG and PCNT are narrower than their 32-bit values. -/
theorem crrRule : Obligations.CrrRule := by
  refine ⟨?illegal, fun _ => decode_eq_ok_iff.mpr rfl, fun s =>
    ⟨rfl, rfl, ?config, rfl, rfl, rfl, ?pcnt, rfl, rfl, fun cr h => ?other⟩⟩
  case illegal => exact illegalUnless_of_ifReservedZero fun _ _ _ _ => ⟨_, _, rfl, by simp [and_assoc]⟩
  case config => exact exec_crr_of_crRead s (congrArg some s.config_eq_ofNat)
  case pcnt => exact exec_crr_of_crRead s (congrArg some (zext32_eq_ofNat s.pcnt))
  case other => exact exec_of_not_wellFormed s (by simpa [Instr.wellFormed] using h)

/-- Settles O17: completing with 0 is all that NOP does. -/
theorem nopRule : Obligations.NopRule := by
  refine ⟨?illegal, decode_eq_ok_iff.mpr rfl, fun s => rfl⟩
  case illegal => exact illegalUnless_of_ifReservedZero fun _ _ _ _ => ⟨_, _, rfl, by simp [and_assoc]⟩

/-- Settles O20: the slot is the one the field numbers, and the index is not looked at. -/
theorem pidxwRule : Obligations.PidxwRule := by
  refine ⟨?illegal, fun _ _ => decode_eq_ok_iff.mpr rfl, fun s slot index => ?done⟩
  case illegal => exact illegalUnless_of_ifReservedZero fun _ _ _ _ => ⟨_, _, rfl, by simp⟩
  case done =>
    rw [exec, execPidxw, State.setPidx_slotField]
    rfl

/-- Settles O21: the slot is answered, zero-extended. -/
theorem pidxrRule : Obligations.PidxrRule := by
  refine ⟨?illegal, fun _ => decode_eq_ok_iff.mpr rfl, fun s slot => ?done⟩
  case illegal => exact illegalUnless_of_ifReservedZero fun _ _ _ _ => ⟨_, _, rfl, by simp [and_assoc]⟩
  case done => rw [exec, execPidxr, State.pidxAt_slotField, complete_zext32]

end Sys2Proof.Machine
end

section
/-! SUPPORT. The sizes of the host procedures (rule R253 of 47_host_procedures.md): the block size is Mathlib's `⌈/⌉`, and what the
padding is follows from that. -/

namespace Sys2Proof.Machine

open Sys2Proof.Claims

/-! ## The sizes (rule R253) -/

section

variable (length : Nat) {k : Nat}

theorem hostBlockSize_eq_ceilDiv (k : Nat) : hostBlockSize length k = length ⌈/⌉ k := rfl

/-- The block size is the least one whose `k` blocks hold the input. -/
theorem hostBlockSize_le_iff (hk : 1 ≤ k) {b : Nat} : hostBlockSize length k ≤ b ↔ length ≤ b * k := by
  rw [hostBlockSize_eq_ceilDiv, ceilDiv_le_iff_le_mul hk, Nat.mul_comm]

theorem hostBlockSize_mul_eq_add_padding (hk : 1 ≤ k) : hostBlockSize length k * k = length + hostPadding length k :=
  (Nat.add_sub_cancel' ((hostBlockSize_le_iff length hk).mp le_rfl)).symm

theorem hostPadding_lt (hk : 1 ≤ k) : hostPadding length k < k := by
  have blocks := hostBlockSize_mul_eq_add_padding length hk
  have floor : hostBlockSize length k * k ≤ length + k - 1 := Nat.div_mul_le_self _ _
  omega

theorem hostPadding_zero (k : Nat) : hostPadding 0 k = 0 := by
  rw [hostPadding, hostPaddedLength, hostBlockSize_eq_ceilDiv, zero_ceilDiv, Nat.zero_mul]

end

/-- Every byte after the data is the padding's `0x00`. -/
theorem getElem?_hostPadded_of_length_le {data : List Byte} {k j : Nat} (hk : 1 ≤ k) (after : data.length ≤ j)
    (inside : j < hostBlockSize data.length k * k) : (hostPadded data k)[j]? = some 0x00 := by
  rw [hostBlockSize_mul_eq_add_padding _ hk] at inside
  rw [hostPadded, List.getElem?_append_right after, List.getElem?_replicate_of_lt (by omega)]

/-- Settles O59: the block size is a ceiling, and the padding is what it leaves over. -/
theorem hostSizes : Obligations.HostSizes := by
  intro data k hk
  refine ⟨fun b => (hostBlockSize_le_iff _ hk).symm, hostBlockSize_mul_eq_add_padding _ hk, hostPadding_lt _ hk, ?empty, ?size,
    take_hostPadded data k, fun j => getElem?_hostPadded_of_length_le hk⟩
  case empty => exact fun empty => empty ▸ hostPadding_zero k
  case size => rw [length_hostPadded data hk, Nat.mul_comm]

end Sys2Proof.Machine
end

section
/-! SUPPORT. The core with no host action pending (rule R298): the step that has no input to take. -/

namespace Sys2Proof.Machine

open Sys2Proof.Claims

/-- Settles O7: a step acts only by taking an input, and an idle core has none to take. -/
theorem idleCoreKeepsState : Obligations.IdleCoreKeepsState := by
  intro s idle
  rw [step, idle]

end Sys2Proof.Machine
end

section
/-! SUPPORT. Reset, and what no command word can do: the reset input while the core is idle and while a command executes (rules R310,
R311), and the successor every word has in every state (R315, part 2 of 93_implementation_defined.md). -/

namespace Sys2Proof.Machine

open Sys2Proof.Claims

/-! ## The bytes an interrupted command might have written (rule R311) -/

section

variable {s : State} {i : Instr} {w : Command} {a : Nat}

/-- Only STB, ENC and DEC write DMEM, at the address of the one and in the destination region of the others. -/
theorem not_mem_commandWrites (stb : ∀ ga addr, i = .stb ga addr → a ≠ addr.toNat)
    (enc : i = .enc → OutsideDestination s s.n.toNat a) (dec : i = .dec → OutsideDestination s s.k.toNat a) :
    a ∉ commandWrites i s := by
  cases i with
  | stb ga addr => exact fun mem => stb ga addr rfl (List.mem_singleton.mp mem)
  | enc => exact not_mem_region_of_outsideDestination (enc rfl)
  | dec => exact not_mem_region_of_outsideDestination (dec rfl)
  | _ => exact List.not_mem_nil

/-- A reset leaves no byte unspecified that the interrupted command would not write if it completed. -/
theorem mem_commandWrites_of_mem_interruptedWrites (ha : a ∈ interruptedWrites w s) :
    ∃ i, decode w = .ok i ∧ a ∈ commandWrites i s := by
  unfold interruptedWrites at ha
  cases hw : decode w with
  | error _ => simp [hw] at ha
  | ok i =>
    obtain ⟨t, ht⟩ := exec_total i s
    simp only [hw, ht] at ha
    split at ha
    · exact ⟨i, rfl, ha⟩
    · exact absurd ha List.not_mem_nil

end

/-- A reset during a command leaves the reset values, and rewrites no byte but the ones it leaves unspecified. -/
theorem runResetDuring_next (w : Command) (s : State) :
    ∃ t, runResetDuring w s = .next t ∧ ResetValues t ∧ t.dmemBytes = s.dmemBytes ∧ t.inputs = s.inputs
      ∧ ∀ a, a ∉ interruptedWrites w s → memRead t.dmem a = memRead s.dmem a := by
  refine ⟨_, rfl, resetValues_resetKeepingDmem s, rfl, rfl, fun a ha => ?kept⟩
  case kept =>
    refine memRead_memWriteCells_outside s.dmem _ a fun c hc hca => ha ?_
    obtain ⟨addr, mem, rfl⟩ := List.mem_map.mp hc
    exact hca ▸ mem

/-! ## What a command word keeps of the machine -/

/-- The host's actions, the size of DMEM and the free-value counter are no destination of a command (log entries 1, 2, 6). -/
theorem Update.host_frame {s u : State} {i : Instr} (h : Update s i u) :
    u.inputs = s.inputs ∧ u.dmemBytes = s.dmemBytes ∧ u.fresh = s.fresh := by
  cases h <;> exact ⟨rfl, rfl, rfl⟩

/-- A word that is no command answers too (rule R77). -/
theorem runCommand_total (w : Command) (s : State) : ∃ t, runCommand w s = .next t := by
  cases hw : decode w with
  | ok i =>
    rw [runCommand_ok hw]
    exact exec_total i s
  | error e => exact ⟨_, runCommand_error hw⟩

/-! ## The statements -/

/-- Settles O11: SRST, a raised status and a completed update are all that a word can lead to, and each keeps the three fields. -/
theorem everyWordHasASuccessor : Obligations.EveryWordHasASuccessor := by
  intro s w
  obtain ⟨t, ht⟩ := runCommand_total w s
  refine ⟨t, (step_presentNext s w).trans ht, ?_⟩
  rcases runCommand_cases ht with ⟨-, rfl⟩ | ⟨-, u, status, v, rfl | ⟨i, -, update⟩, rfl⟩
  · exact ⟨rfl, rfl, rfl⟩
  · exact ⟨rfl, rfl, rfl⟩
  · exact update.host_frame

/-- Settles O15: the bytes left unspecified are among those the interrupted command writes, and the three hypotheses on `a` keep it
out of these. -/
theorem resetDuringCommand : Obligations.ResetDuringCommand := by
  intro s w rest hinputs
  obtain ⟨t, ht, values, bytes, inputs, kept⟩ := runResetDuring_next w { s with inputs := rest }
  refine ⟨t, (step_cons hinputs).trans ht, values, bytes, inputs, fun a stb enc dec => kept a fun ha => ?_⟩
  obtain ⟨i, hw, mem⟩ := mem_commandWrites_of_mem_interruptedWrites ha
  simp only [hw, Except.ok.injEq] at stb enc dec
  exact not_mem_commandWrites stb enc dec mem

/-- Settles O13: the reset input leaves the power-on state with DMEM and the model's own fields kept. -/
theorem resetGivesResetState : Obligations.ResetGivesResetState := by
  refine ⟨fun bytes mem => ⟨resetValues_powerOn bytes mem, rfl, rfl⟩, resetValues_powerOn _ _, fun s rest hinputs => ?input⟩
  case input => exact ⟨_, step_cons hinputs, resetValues_resetKeepingDmem _, rfl, rfl, rfl, rfl⟩

end Sys2Proof.Machine
end
